-- ==== Sys2Proof/Word.lean ====
section
/-! DEFINITION. The word types of the Descriptor Ring Arbiter (R9, R13: every value is an unsigned integer of a fixed width). -/

namespace Sys2Proof

/-- `u8`: one byte of a descriptor or of a frame. -/
abbrev Byte := BitVec 8

/-- `u16`: a length, checksum or special field of a descriptor. -/
abbrev Half := BitVec 16

/-- `u32`: a device register, a command word or a response word (`REG_WIDTH`, R9). -/
abbrev Word := BitVec 32

/-- `u64`: a bus address (`ADDR_WIDTH`, R9). -/
abbrev BusAddr := BitVec 64

/-- A frame or any other byte string; byte `j` of it is the `j`-th element (R85). -/
abbrev Bytes := List Byte

end Sys2Proof
end

