-- ==== Sys2Proof/Config.lean ====
section
/-! DEFINITION. The parameters of the block: the sizes of R9 and the register constants of R10 at the defaults the spec
gives (R2 lets a model fix them), and the parameters without a default (R11) and the policy parameters (R12) as a record
that `State` carries and no step changes. -/

namespace Sys2Proof.Config

/-! Sizes (R9). -/

@[simp] abbrev txCap : Nat := 64
@[simp] abbrev rxCap : Nat := 128
/-- TRANSMIT rejects `LEN >= MAX_FRAME`. -/
@[simp] abbrev maxFrame : Nat := 1518
@[simp] abbrev rxBufSize : Nat := 2048
/-- Bytes per TX buffer (decision D11 of the spec). -/
@[simp] abbrev txBufSize : Nat := 1518
@[simp] abbrev descSize : Nat := 16

/-! Register constants (R10), each put together from the fields of R131 to R134. -/

/-- `STATUS_SIGNATURE`: what ATTACH expects in STATUS. -/
def statusSignature : Word := 0x80080783

/-- `MAC_ADDR`, `m0` to `m5`, `m0` the first byte on the wire. -/
def macAddr : Vector Byte 6 := #v[0x52, 0x54, 0x00, 0x12, 0x34, 0x56]

/-- `TCTL_INIT`: COLD, CT, PSP and EN (R131). -/
def tctlInit : Word := (0x40 <<< 12) ||| (0x10 <<< 4) ||| (1 <<< 3) ||| (1 <<< 1)

/-- `RCTL_INIT`: SECRC and EN (R133). -/
def rctlInit : Word := (1 <<< 26) ||| (1 <<< 1)

end Sys2Proof.Config

namespace Sys2Proof

/-- `RX_AVAIL_POLICY` (R12): which RX slots RXE may fill. -/
inductive RxAvailPolicy where
  /-- The default: the Done bit alone decides (R238). -/
  | doneBit
  /-- The 8254x reading: the Done bit and `RDH ≠ RDT` (R239). -/
  | window
deriving DecidableEq, Repr

/-- The two values `TIPG_INIT` may take (R12), named by their IPGR1 field. -/
inductive TipgInit where
  /-- The default, IPGR1 = 4. -/
  | ipgr1Four
  /-- The alternative, IPGR1 = 8. -/
  | ipgr1Eight
deriving DecidableEq, Repr

/-- The value ATTACH writes into TIPG: IPGR2 = 6, IPGR1 and IPGT = 10 (R132). -/
def TipgInit.value : TipgInit → Word
  | .ipgr1Four => (6 <<< 20) ||| (4 <<< 10) ||| 10
  | .ipgr1Eight => (6 <<< 20) ||| (8 <<< 10) ||| 10

/-- The platform's parameters (R11, which gives them no default) and the policy parameters (R12).
`DEVICE_STATUS`, the last of R11, is not here: its one home is the STATUS register (R32). -/
structure Platform where
  /-- `TX_RING_BASE`. -/
  txRingBase : BusAddr
  /-- `RX_RING_BASE`. -/
  rxRingBase : BusAddr
  /-- `TX_BUF_ADDR(i)`. -/
  txBufAddr : Vector BusAddr Config.txCap
  /-- `RX_BUF_ADDR(i)`. -/
  rxBufAddr : Vector BusAddr Config.rxCap
  rxAvailPolicy : RxAvailPolicy
  tipgInit : TipgInit
deriving DecidableEq, Repr

/-- The platform the spec's own test vectors run on (95_test_vectors.md, section 0), with the default policies.
DESIGN CHOICE (log entry 1): `State.reset` is taken on this platform; `State.resetFrom` takes any. -/
def Platform.test : Platform where
  txRingBase := 0x100000
  rxRingBase := 0x100400
  txBufAddr := Vector.ofFn fun i => BitVec.ofNat 64 (0x200000 + 0x800 * i.val)
  rxBufAddr := Vector.ofFn fun i => BitVec.ofNat 64 (0x300000 + 0x800 * i.val)
  rxAvailPolicy := .doneBit
  tipgInit := .ipgr1Four

/-! The host's IPC constants (R262, R263, decision D30); the block does not depend on them. -/

/-- `PAGE_SIZE`. -/
@[simp] abbrev Config.pageSize : Nat := 4096
/-- `NSREQ_INPUT`, the tag of a driver-to-stack message. -/
def Config.nsreqInput : Word := 10
/-- `NSREQ_OUTPUT`, the tag of a stack-to-driver message. -/
def Config.nsreqOutput : Word := 11

end Sys2Proof
end

