-- ==== Sys2Proof/Syntax.lean ====
section
/-! DEFINITION. The host commands as syntax: one constructor per row of spec/opcode_table.json (R111). -/

namespace Sys2Proof

/-- A host command with its operands. -/
inductive Instr where
  /-- ATTACH (R150): no operand. -/
  | attach
  /-- TRANSMIT (R180): `LEN` from the command word and the data operand the host presents with it (R115). -/
  | transmit (len : Half) (data : Bytes)
  /-- RECEIVE (R220): no operand; the caller's buffer is the response data. -/
  | receive
deriving DecidableEq, Repr

end Sys2Proof
end

