-- ==== Sys2Proof/WellFormed.lean ====
section
/-! DEFINITION. Which commands are well formed: R115 asks of TRANSMIT's data operand that it hold `LEN` bytes whenever
`LEN < MAX_FRAME`. A command that is not well formed still has a meaning (the refusal mark `HostDataShort`). -/

namespace Sys2Proof

/-- R115: with `LEN < MAX_FRAME` the data operand holds at least `LEN` bytes. -/
def Instr.wellFormed : Instr → Bool
  | .attach => true
  | .transmit len data => decide (Config.maxFrame ≤ len.toNat) || decide (len.toNat ≤ data.length)
  | .receive => true

end Sys2Proof
end

