-- ==== Sys2Proof/Decode.lean ====
section
/-! DEFINITION. Decoding a host command word, total on every 32-bit word (R110 to R114), and the encoder written from the
same field table. The word comes over the command port, not from memory (R58); TRANSMIT's data operand comes beside it
(R115). -/

namespace Sys2Proof

/-! The fields of a command word (R110). -/

/-- `OP`, bits 3:0. -/
def opField (w : Word) : BitVec 4 := w.extractLsb' 0 4
/-- `RSV`, bits 15:4. -/
def rsvField (w : Word) : BitVec 12 := w.extractLsb' 4 12
/-- `LEN`, bits 31:16. -/
def lenField (w : Word) : Half := w.extractLsb' 16 16

/-- Why a word is illegal (R114); whichever it is, the block raises `IllegalCommand`. -/
inductive DecodeError where
  /-- `RSV` is not 0 (R112). -/
  | reservedBits
  /-- `OP` names no command (R111). -/
  | illegalOp
  /-- `LEN` is not 0 on ATTACH or RECEIVE (R113). -/
  | lenNotZero
deriving DecidableEq, Repr

/-- The command a word stands for, with the data operand presented beside it. -/
def decode (w : Word) (data : Bytes) : Except DecodeError Instr :=
  if rsvField w = 0 then
    if opField w = 1 then if lenField w = 0 then .ok .attach else .error .lenNotZero
    else if opField w = 2 then .ok (.transmit (lenField w) data)
    else if opField w = 3 then if lenField w = 0 then .ok .receive else .error .lenNotZero
    else .error .illegalOp
  else .error .reservedBits

/-- A command word from its fields, `RSV` = 0 (R110): `(LEN << 16) | OP`, as R127 writes it. -/
def commandWord (op : BitVec 4) (len : Half) : Word := (len.setWidth 32 <<< 16) ||| op.setWidth 32

/-- The word of a command. -/
def encode : Instr → Word
  | .attach => commandWord 1 0
  | .transmit len _ => commandWord 2 len
  | .receive => commandWord 3 0

/-- The data operand presented with a command's word (R115): empty except for TRANSMIT (R305). -/
def operandOf : Instr → Bytes
  | .transmit _ data => data
  | _ => []

/-- A row of spec/opcode_table.json. -/
structure Row where
  mnemonic : String
  pattern : Word
  mask : Word
deriving DecidableEq, Repr

/-- spec/opcode_table.json, the table R114 defines legality by. -/
def opcodeTable : List Row :=
  [⟨"ATTACH", 0x00000001, 0xFFFFFFFF⟩, ⟨"TRANSMIT", 0x00000002, 0x0000FFFF⟩, ⟨"RECEIVE", 0x00000003, 0xFFFFFFFF⟩]

/-- `w` matches the row under the row's mask. -/
def Row.accepts (r : Row) (w : Word) : Bool := w &&& r.mask == r.pattern

/-- The data operand the host's table reading presents with a word: zeros, `LEN` of them where TRANSMIT reads them. -/
def zeroOperand (w : Word) : Bytes :=
  if opField w = 2 ∧ (lenField w).toNat < Config.maxFrame then List.replicate (lenField w).toNat 0 else []

/-- What the decoder reads from the word that spec/opcode_table.json numbers as `w`, its data operand all zeros. -/
def decodeTableWord (nbits w : Nat) : Option Instr :=
  if nbits = 32 then
    match decode (BitVec.ofNat 32 w) (zeroOperand (BitVec.ofNat 32 w)) with
    | .ok i => some i
    | .error _ => none
  else none

end Sys2Proof
end

