-- ==== Sys2Proof/Machine/State.lean ====
section
/-! DEFINITION. The state of the block as plain data: every piece R30 lists, the platform's parameters, the environment's
schedule and what the host has been answered; the reasons a step can stop; and the state after reset (R65, R320). -/

namespace Sys2Proof.Machine

/-- The 17 device registers (R31). -/
inductive Reg where
  | ctrl | status | rctl | tctl | tipg
  | rdbal | rdbah | rdlen | rdh | rdt
  | tdbal | tdbah | tdlen | tdh | tdt
  | ral | rah
deriving DecidableEq, Repr

/-- The register file: one 32-bit word per register (R31), holding the value last written (R47). -/
structure Regs where
  ctrl : Word
  /-- STATUS holds `DEVICE_STATUS` (R32): the one home of that platform parameter. -/
  status : Word
  rctl : Word
  tctl : Word
  tipg : Word
  rdbal : Word
  rdbah : Word
  rdlen : Word
  rdh : Word
  rdt : Word
  tdbal : Word
  tdbah : Word
  tdlen : Word
  tdh : Word
  tdt : Word
  ral : Word
  rah : Word
deriving DecidableEq, Repr

/-- One of the byte spaces of R80: a list of (offset, byte) pairs. Its canonical form is `Memory.wf` (Machine/Ops.lean). -/
abbrev Memory := List Host.Cell

/-- The attach mode (R55). -/
inductive Mode where
  | unattached | attached | failed
deriving DecidableEq, Repr

/-- The fault kinds of R294. SPEC'S FAULTS ARE MARKS, NOT STOPS: raising one adds it to `State.faults` and the machine
goes on (R295), so no step answers `Host.Outcome.fault`. -/
inductive Fault where
  /-- Raised by a command word that matches no row (R114). Safe: the spec's own outcome. -/
  | illegalCommand
  /-- Raised by TRANSMIT and RECEIVE in mode UNATTACHED (R300). Safe: the spec's own outcome. -/
  | notAttached
  /-- Raised by ATTACH in mode ATTACHED (R151). Safe: the spec's own outcome. -/
  | reattach
  /-- Raised by every legal command in mode FAILED (R151, R293). Safe: the spec's own outcome. -/
  | useAfterAttachFailure
  /-- Raised by TRANSMIT, which then goes on, when its free candidate slot is TDH (R185). Safe: the spec's own outcome. -/
  | txWindowCollapse
  /-- Raised by TXE and RECEIVE on a length larger than the buffer, and by an access outside its space (R81, R195,
  R225). Safe: the spec's own outcome. -/
  | invariantBroken
deriving DecidableEq, Repr

/-- The fault set (R60), one Boolean per kind, so that equal sets are equal data. -/
structure FaultSet where
  illegalCommand : Bool
  notAttached : Bool
  reattach : Bool
  useAfterAttachFailure : Bool
  txWindowCollapse : Bool
  invariantBroken : Bool
deriving DecidableEq, Repr

/-- The refusal reasons of R296. -/
inductive RefuseReason where
  /-- Raised by TRANSMIT with fewer than `LEN < MAX_FRAME` bytes of data (R115). -/
  | hostDataShort
  /-- Raised by ATTACH on a platform that breaks R11 (R165). -/
  | platformInvalid
deriving DecidableEq, Repr

/-- Why a step has no next state. -/
inductive Refusal where
  /-- No meaning has been written for the instruction. No arm of `exec` answers it. Safe. -/
  | notModelled (mnemonic : String)
  /-- Answered by `step` once the refusal mark is set: R296 gives "that step and everything after it no meaning". Safe. -/
  | afterRefusal (reason : RefuseReason)
deriving DecidableEq, Repr

/-- The free draws of one RXE step (R240): any value of each field. -/
structure RxDraw where
  checksum : Half
  errors : Byte
  special : Half
  /-- Status bits 7:2. -/
  statusHigh : BitVec 6
deriving DecidableEq, Repr

/-- A step label of R305, with the free inputs it carries. -/
inductive Label where
  /-- HOST issues a command word with a data operand. -/
  | host (word : Word) (data : Bytes)
  /-- TXE drains one descriptor. -/
  | txeDrain
  /-- RXE fills one descriptor with a frame the wire delivers. -/
  | rxeFill (frame : Bytes) (draw : RxDraw)
deriving DecidableEq, Repr

/-- What the host gets for one command (R116, R118): the response word and RECEIVE's data. -/
structure Response where
  word : Word
  data : Bytes
deriving DecidableEq, Repr

/-- The state of R30, and four fields of the model's own: `platform`, `pending`, `responses` and the reason kept with
`refused`. -/
@[ext]
structure State where
  /-- The platform's parameters (R11, R12); no step changes them. -/
  platform : Platform
  /-- The device registers (R31). -/
  regs : Regs
  /-- The TX descriptor ring's 1024 bytes (R48, R80). -/
  txd : Memory
  /-- The RX descriptor ring's 2048 bytes (R49, R80). -/
  rxd : Memory
  /-- The TX buffers' 97152 bytes (R50, R80). -/
  txb : Memory
  /-- The RX buffers' 262144 bytes (R51, R80). -/
  rxb : Memory
  /-- The attach mode (R55). -/
  mode : Mode
  /-- `tx_accum`: the bytes of a frame whose descriptors so far had EOP = 0 (R56). -/
  txAccum : Bytes
  /-- `tx_log`: the frames TXE has handed to the NIC, oldest first (R57). -/
  txLog : List Bytes
  /-- The sticky fault set (R60). -/
  faults : FaultSet
  /-- The sticky refusal mark (R61), with the reason it was set for. -/
  refused : Option RefuseReason
  /-- The steps the environment has chosen to come next (R305), soonest first: the scheduler's choice and the free
  inputs, held as data (log entry 2). -/
  pending : List Label
  /-- The responses the host has been sent, oldest first (R116, R310). -/
  responses : List Response
deriving DecidableEq, Repr

/-- What R65 leaves "unspecified" after reset, "any value as a draw": every register (of TCTL and RCTL all but EN; STATUS
is not drawn) and the contents of the four byte spaces. -/
structure ResetDraw where
  regs : Regs
  txd : Memory
  rxd : Memory
  txb : Memory
  rxb : Memory
deriving DecidableEq, Repr

/-- The state after reset (R65, R320) on a platform, with a `DEVICE_STATUS`, for any draw of what the spec leaves open. -/
def State.resetFrom (platform : Platform) (deviceStatus : Word) (draw : ResetDraw) : State where
  platform := platform
  regs := { draw.regs with
    status := deviceStatus, tctl := draw.regs.tctl &&& 0xFFFFFFFD, rctl := draw.regs.rctl &&& 0xFFFFFFFD }
  txd := draw.txd
  rxd := draw.rxd
  txb := draw.txb
  rxb := draw.rxb
  mode := .unattached
  txAccum := []
  txLog := []
  faults := ⟨false, false, false, false, false, false⟩
  refused := none
  pending := []
  responses := []

/-- The draw that `State.reset` takes: every register and every byte 0 (DESIGN CHOICE, log entries 3 and 4). -/
def ResetDraw.zero : ResetDraw where
  regs :=
    { ctrl := 0, status := 0, rctl := 0, tctl := 0, tipg := 0,
      rdbal := 0, rdbah := 0, rdlen := 0, rdh := 0, rdt := 0,
      tdbal := 0, tdbah := 0, tdlen := 0, tdh := 0, tdt := 0, ral := 0, rah := 0 }
  txd := []
  rxd := []
  txb := []
  rxb := []

/-- The state after reset on a platform, with a `DEVICE_STATUS`, all draws 0. -/
def State.resetWith (platform : Platform) (deviceStatus : Word) : State :=
  State.resetFrom platform deviceStatus ResetDraw.zero

/-- The machine right after reset, on the platform of the spec's test vectors (log entry 1). -/
def State.reset : State := State.resetWith Platform.test Config.statusSignature

end Sys2Proof.Machine
end

