-- ==== Sys2Proof/Machine/Ops.lean ====
section
/-! DEFINITION. The shared operations: bytes and byte order, the byte spaces of R80 and their primitives (R81), the device
registers (R31, R130), the ring cursors (R16), and how a step ends: a response, a fault mark, a refusal mark, an emitted
frame (R15). -/

namespace Sys2Proof.Machine

/-! ## Byte order (R84): byte `k` of a field holds bits `8k+7 : 8k`. -/

/-- The `n` little-endian bytes of `v`. -/
def leBytes : Nat → Nat → Bytes
  | 0, _ => []
  | n + 1, v => BitVec.ofNat 8 v :: leBytes n (v / 256)

/-- The value of a little-endian byte string. -/
def leNat : Bytes → Nat
  | [] => 0
  | b :: bs => b.toNat + 256 * leNat bs

/-! ## One byte space -/

/-- What an address no pair lists reads as. DESIGN CHOICE (log entry 4): the spec leaves memory before ATTACH open. -/
def Memory.unlisted : Byte := 0

/-- One byte. -/
def Memory.read : Memory → Nat → Byte
  | [], _ => Memory.unlisted
  | (a, b) :: m, x => if x = a then b else Memory.read m x

/-- The pairs at other addresses than `x`. -/
def Memory.erase : Memory → Nat → Memory
  | [], _ => []
  | (a, b) :: m, x => if a = x then Memory.erase m x else (a, b) :: Memory.erase m x

/-- Put the pair `(x, v)` before the first pair with a higher address. -/
def Memory.insert : Memory → Nat → Byte → Memory
  | [], x, v => [(x, v)]
  | (a, b) :: m, x, v => if x < a then (x, v) :: (a, b) :: m else (a, b) :: Memory.insert m x v

/-- Write one byte, keeping the canonical form: an unlisted address's value is not listed. -/
def Memory.write (m : Memory) (x : Nat) (v : Byte) : Memory :=
  if v = Memory.unlisted then m.erase x else (m.erase x).insert x v

/-- The `n` bytes from `a` on. -/
def Memory.bytes (m : Memory) (a : Nat) : Nat → Bytes
  | 0 => []
  | n + 1 => m.read a :: Memory.bytes m (a + 1) n

/-- Write a byte string from `a` on. -/
def Memory.writeBytes (m : Memory) (a : Nat) : Bytes → Memory
  | [] => m
  | b :: bs => Memory.writeBytes (m.write a b) (a + 1) bs

/-- The memory that holds a byte string from `a` on and nothing else, in canonical form. -/
def Memory.ofBytes (a : Nat) : Bytes → Memory
  | [] => []
  | b :: bs => if b = Memory.unlisted then Memory.ofBytes (a + 1) bs else (a, b) :: Memory.ofBytes (a + 1) bs

/-- A space whose every byte is 0 (R154, R155, R158, R159). -/
def Memory.zeros : Memory := []

/-- Every address of the list is above `lo`, strictly rising, and no pair is what an unlisted address reads as. -/
def Memory.wfAbove : Option Nat → Memory → Bool
  | _, [] => true
  | lo, (a, b) :: m => (match lo with | none => true | some l => decide (l < a)) && b != Memory.unlisted && Memory.wfAbove (some a) m

/-- The canonical form: addresses strictly rising, no pair equal to what an unlisted address reads as. -/
def Memory.wf (m : Memory) : Bool := Memory.wfAbove none m

/-- Every listed address lies in a space of `n` bytes. -/
def Memory.within (n : Nat) (m : Memory) : Bool := m.all fun c => decide (c.1 < n)

/-- The little-endian field of `w` bits at `a` (R84, R125). -/
def Memory.field (w : Nat) (m : Memory) (a : Nat) : BitVec w := BitVec.ofNat w (leNat (m.bytes a (w / 8)))

/-- Write a whole field, little-endian. -/
def Memory.setField {w : Nat} (m : Memory) (a : Nat) (v : BitVec w) : Memory := m.writeBytes a (leBytes (w / 8) v.toNat)

/-! ## The device registers -/

def Regs.get (r : Regs) : Reg → Word
  | .ctrl => r.ctrl
  | .status => r.status
  | .rctl => r.rctl
  | .tctl => r.tctl
  | .tipg => r.tipg
  | .rdbal => r.rdbal
  | .rdbah => r.rdbah
  | .rdlen => r.rdlen
  | .rdh => r.rdh
  | .rdt => r.rdt
  | .tdbal => r.tdbal
  | .tdbah => r.tdbah
  | .tdlen => r.tdlen
  | .tdh => r.tdh
  | .tdt => r.tdt
  | .ral => r.ral
  | .rah => r.rah

/-- A write of a whole register (R47). STATUS is read-only (R32): a write of it, which no rule makes, leaves it. -/
def Regs.set (r : Regs) (n : Reg) (v : Word) : Regs :=
  match n with
  | .ctrl => { r with ctrl := v }
  | .status => r
  | .rctl => { r with rctl := v }
  | .tctl => { r with tctl := v }
  | .tipg => { r with tipg := v }
  | .rdbal => { r with rdbal := v }
  | .rdbah => { r with rdbah := v }
  | .rdlen => { r with rdlen := v }
  | .rdh => { r with rdh := v }
  | .rdt => { r with rdt := v }
  | .tdbal => { r with tdbal := v }
  | .tdbah => { r with tdbah := v }
  | .tdlen => { r with tdlen := v }
  | .tdh => { r with tdh := v }
  | .tdt => { r with tdt := v }
  | .ral => { r with ral := v }
  | .rah => { r with rah := v }

/-- `REG[name]` (R14). -/
def State.reg (s : State) (n : Reg) : Word := s.regs.get n

/-- `REG[name] <- v` (R14). -/
def State.setReg (s : State) (n : Reg) (v : Word) : State := { s with regs := s.regs.set n v }

/-- `REG_OFFSETS` (R130): the byte offset of a register in the MMIO region. -/
def Reg.offset : Reg → Nat
  | .ctrl => 0x00000
  | .status => 0x00008
  | .rctl => 0x00100
  | .tctl => 0x00400
  | .tipg => 0x00410
  | .rdbal => 0x02800
  | .rdbah => 0x02804
  | .rdlen => 0x02808
  | .rdh => 0x02810
  | .rdt => 0x02818
  | .tdbal => 0x03800
  | .tdbah => 0x03804
  | .tdlen => 0x03808
  | .tdh => 0x03810
  | .tdt => 0x03818
  | .ral => 0x05400
  | .rah => 0x05404

/-- The register's index, its byte offset divided by 4 (R31). -/
def Reg.index (r : Reg) : Nat := r.offset / 4

/-- The 17 registers in the order of R130's table. -/
def Reg.all : List Reg :=
  [.ctrl, .status, .rctl, .tctl, .tipg, .rdbal, .rdbah, .rdlen, .rdh, .rdt,
   .tdbal, .tdbah, .tdlen, .tdh, .tdt, .ral, .rah]

/-- The register at a byte offset. -/
def Reg.ofOffset (a : Nat) : Option Reg := Reg.all.find? fun r => r.offset == a

/-! ## The five spaces and their primitives (R80, R81) -/

/-- The local address spaces of R80. -/
inductive Space where
  | reg | txd | rxd | txb | rxb
deriving DecidableEq, Repr

/-- The bytes of a space of bytes (R80); the register space is reached by offset, not by size. -/
def Space.size : Space → Nat
  | .reg => 0
  | .txd => Config.txCap * Config.descSize
  | .rxd => Config.rxCap * Config.descSize
  | .txb => Config.txCap * Config.txBufSize
  | .rxb => Config.rxCap * Config.rxBufSize

/-- R81 defines an access of `n` bytes at `a`: inside the space, or one whole register at its offset (R86). -/
def Space.holds (sp : Space) (a n : Nat) : Bool :=
  match sp with
  | .reg => n == 4 && (Reg.ofOffset a).isSome
  | _ => decide (a + n ≤ sp.size)

/-- The contents of a space of bytes. -/
def State.mem (s : State) : Space → Memory
  | .reg => []
  | .txd => s.txd
  | .rxd => s.rxd
  | .txb => s.txb
  | .rxb => s.rxb

/-- Replace all of TXD. -/
def State.setTxd (s : State) (m : Memory) : State := { s with txd := m }
/-- Replace all of RXD. -/
def State.setRxd (s : State) (m : Memory) : State := { s with rxd := m }
/-- Replace all of TXB. -/
def State.setTxb (s : State) (m : Memory) : State := { s with txb := m }
/-- Replace all of RXB. -/
def State.setRxb (s : State) (m : Memory) : State := { s with rxb := m }

/-- Replace the contents of a space of bytes. -/
def State.setMem (s : State) (sp : Space) (m : Memory) : State :=
  match sp with
  | .reg => s
  | .txd => s.setTxd m
  | .rxd => s.setRxd m
  | .txb => s.setTxb m
  | .rxb => s.setRxb m

/-- `MemRead(space, a, n)`; none where R81 does not define it. -/
def State.memRead (s : State) (sp : Space) (a n : Nat) : Option Bytes :=
  if sp.holds a n then
    match sp with
    | .reg => (Reg.ofOffset a).map fun r => leBytes 4 (s.reg r).toNat
    | _ => some ((s.mem sp).bytes a n)
  else none

/-- `MemWrite(space, a, |v|, v)`; none where R81 does not define it. -/
def State.memWrite (s : State) (sp : Space) (a : Nat) (v : Bytes) : Option State :=
  if sp.holds a v.length then
    match sp with
    | .reg => (Reg.ofOffset a).map fun r => s.setReg r (BitVec.ofNat 32 (leNat v))
    | _ => some (s.setMem sp ((s.mem sp).writeBytes a v))
  else none

/-! ## Ring cursors (R16) -/

/-- `next_TX`. -/
def nextTx (i : Nat) : Nat := (i + 1) % Config.txCap
/-- `next_RX`. -/
def nextRx (i : Nat) : Nat := (i + 1) % Config.rxCap

/-- Slot `i` lies in the cyclic window `[a, b)` of a ring of `n` slots (R16). -/
def inWindow (n a b i : Nat) : Bool := decide ((i + n - a) % n < (b + n - a) % n)

/-! ## How a step ends -/

/-- The result codes of R117. -/
inductive ResultCode where
  | ok | packetTooLarge | ringFull | noPacketAvailable | deviceAttachFailure | faulted
deriving DecidableEq, Repr

/-- The CODE values of R117; 5 to 14 are never produced. -/
def ResultCode.code : ResultCode → BitVec 4
  | .ok => 0
  | .packetTooLarge => 1
  | .ringFull => 2
  | .noPacketAvailable => 3
  | .deviceAttachFailure => 4
  | .faulted => 15

/-- The response word (R116): CODE in bits 3:0, 0 in 15:4, RLEN in 31:16. -/
def responseWord (c : ResultCode) (rlen : Half) : Word := (rlen.setWidth 32 <<< 16) ||| c.code.setWidth 32

/-- `CODE` of a response. -/
def Response.code (r : Response) : BitVec 4 := r.word.extractLsb' 0 4
/-- `RLEN` of a response. -/
def Response.rlen (r : Response) : Half := r.word.extractLsb' 16 16

/-- Send the host a response. -/
def State.respond (s : State) (r : Response) : State := { s with responses := s.responses ++ [r] }

/-- `return Result(code)` (R15). -/
def State.result (s : State) (c : ResultCode) : State := s.respond ⟨responseWord c 0, []⟩

/-- `return Result(OK, len, bytes)` (R15), RECEIVE's only. -/
def State.resultData (s : State) (n : Half) (data : Bytes) : State := s.respond ⟨responseWord .ok n, data⟩

def FaultSet.empty : FaultSet := ⟨false, false, false, false, false, false⟩

/-- Is the kind in the set? -/
def FaultSet.has (f : FaultSet) : Fault → Bool
  | .illegalCommand => f.illegalCommand
  | .notAttached => f.notAttached
  | .reattach => f.reattach
  | .useAfterAttachFailure => f.useAfterAttachFailure
  | .txWindowCollapse => f.txWindowCollapse
  | .invariantBroken => f.invariantBroken

/-- Add a kind to the set. -/
def FaultSet.add (f : FaultSet) : Fault → FaultSet
  | .illegalCommand => { f with illegalCommand := true }
  | .notAttached => { f with notAttached := true }
  | .reattach => { f with reattach := true }
  | .useAfterAttachFailure => { f with useAfterAttachFailure := true }
  | .txWindowCollapse => { f with txWindowCollapse := true }
  | .invariantBroken => { f with invariantBroken := true }

/-- The kind's number in R294. -/
def Fault.number : Fault → Nat
  | .illegalCommand => 1
  | .notAttached => 2
  | .reattach => 3
  | .useAfterAttachFailure => 4
  | .txWindowCollapse => 5
  | .invariantBroken => 6

/-- The set as the bit mask of R294, bit `k` for kind `k`. -/
def FaultSet.mask (f : FaultSet) : BitVec 7 :=
  [Fault.illegalCommand, .notAttached, .reattach, .useAfterAttachFailure, .txWindowCollapse, .invariantBroken].foldl
    (fun m k => if f.has k then m ||| (1 <<< k.number) else m) 0

/-- `raise Fault(k)` where the step goes on, or where an engine's step ends (R15, R295): the mark alone. -/
def State.raise (s : State) (k : Fault) : State := { s with faults := s.faults.add k }

/-- `raise Fault(k)` that ends a host command (R15, R295): the mark, and the response FAULTED. The block has no trap
mechanism (R297): this is all that "taking an exception" is, and nothing is ever returned from (R298). -/
def State.fault (s : State) (k : Fault) : State := (s.raise k).result .faulted

/-- `refuse(reason)` (R15, R296): the mark, and nothing else, not even a response. -/
def State.refuse (s : State) (r : RefuseReason) : State := { s with refused := some r }

/-- `emit TxFrame(bytes)` (R15). -/
def State.emit (s : State) (frame : Bytes) : State := { s with txLog := s.txLog ++ [frame] }

/-- `tx_accum <- bytes`. -/
def State.setAccum (s : State) (bytes : Bytes) : State := { s with txAccum := bytes }

/-- `mode <- m`. -/
def State.setMode (s : State) (m : Mode) : State := { s with mode := m }

end Sys2Proof.Machine
end

