-- ==== Sys2Proof/Machine/Operands.lean ====
section
/-! DEFINITION. The operand forms: descriptor fields (R119, R122, R125), packet buffers (R83) and the data operand of
TRANSMIT (R115). -/

namespace Sys2Proof.Machine

/-! ## Descriptors -/

/-- The byte offset of descriptor `i` in its ring's space (R82). -/
def descAt (i : Nat) : Nat := Config.descSize * i

/-- A field of the TX descriptor, in the order of R119. -/
inductive TxField where
  | addr | length | cso | cmd | status | css | special
deriving DecidableEq, Repr

/-- The first byte of the field within the descriptor (R119). -/
def TxField.offset : TxField → Nat
  | .addr => 0
  | .length => 8
  | .cso => 10
  | .cmd => 11
  | .status => 12
  | .css => 13
  | .special => 14

/-- The width of the field in bytes (R119). -/
def TxField.bytes : TxField → Nat
  | .addr => 8
  | .length => 2
  | .cso => 1
  | .cmd => 1
  | .status => 1
  | .css => 1
  | .special => 2

/-- A field of the RX descriptor, in the order of R122. -/
inductive RxField where
  | addr | length | checksum | status | errors | special
deriving DecidableEq, Repr

/-- The first byte of the field within the descriptor (R122). -/
def RxField.offset : RxField → Nat
  | .addr => 0
  | .length => 8
  | .checksum => 10
  | .status => 12
  | .errors => 13
  | .special => 14

/-- The width of the field in bytes (R122). -/
def RxField.bytes : RxField → Nat
  | .addr => 8
  | .length => 2
  | .checksum => 2
  | .status => 1
  | .errors => 1
  | .special => 2

/-- Where field `f` of TX descriptor `i` stands in TXD (R125). -/
def txAt (i : Nat) (f : TxField) : Nat := descAt i + f.offset
/-- Where field `f` of RX descriptor `i` stands in RXD (R125). -/
def rxAt (i : Nat) (f : RxField) : Nat := descAt i + f.offset

/-- A TX descriptor's fields (R48). -/
structure TxDesc where
  addr : BusAddr
  length : Half
  cso : Byte
  cmd : Byte
  status : Byte
  css : Byte
  special : Half
deriving DecidableEq, Repr

/-- An RX descriptor's fields (R49). -/
structure RxDesc where
  addr : BusAddr
  length : Half
  checksum : Half
  status : Byte
  errors : Byte
  special : Half
deriving DecidableEq, Repr

/-- The 16 bytes of a TX descriptor, packed in the order of R119. -/
def txDescBytes (d : TxDesc) : Bytes :=
  leBytes 8 d.addr.toNat ++ leBytes 2 d.length.toNat ++ leBytes 1 d.cso.toNat ++ leBytes 1 d.cmd.toNat
    ++ leBytes 1 d.status.toNat ++ leBytes 1 d.css.toNat ++ leBytes 2 d.special.toNat

/-- The 16 bytes of an RX descriptor, packed in the order of R122. -/
def rxDescBytes (d : RxDesc) : Bytes :=
  leBytes 8 d.addr.toNat ++ leBytes 2 d.length.toNat ++ leBytes 2 d.checksum.toNat ++ leBytes 1 d.status.toNat
    ++ leBytes 1 d.errors.toNat ++ leBytes 2 d.special.toNat

/-- `TXD[i]` as the ring's bytes hold it. -/
def txDescOf (m : Memory) (i : Nat) : TxDesc where
  addr := m.field 64 (txAt i .addr)
  length := m.field 16 (txAt i .length)
  cso := m.field 8 (txAt i .cso)
  cmd := m.field 8 (txAt i .cmd)
  status := m.field 8 (txAt i .status)
  css := m.field 8 (txAt i .css)
  special := m.field 16 (txAt i .special)

/-- `RXD[i]` as the ring's bytes hold it. -/
def rxDescOf (m : Memory) (i : Nat) : RxDesc where
  addr := m.field 64 (rxAt i .addr)
  length := m.field 16 (rxAt i .length)
  checksum := m.field 16 (rxAt i .checksum)
  status := m.field 8 (rxAt i .status)
  errors := m.field 8 (rxAt i .errors)
  special := m.field 16 (rxAt i .special)

/-- `TXD[i]` (R14). -/
def State.txDesc (s : State) (i : Nat) : TxDesc := txDescOf s.txd i
/-- `RXD[i]` (R14). -/
def State.rxDesc (s : State) (i : Nat) : RxDesc := rxDescOf s.rxd i

/-- `TXD[i].field <- v` (R14), `v` as wide as the field. -/
def State.setTx {w : Nat} (s : State) (i : Nat) (f : TxField) (v : BitVec w) : State :=
  s.setTxd (s.txd.setField (txAt i f) v)
/-- `RXD[i].field <- v` (R14), `v` as wide as the field. -/
def State.setRx {w : Nat} (s : State) (i : Nat) (f : RxField) (v : BitVec w) : State :=
  s.setRxd (s.rxd.setField (rxAt i f) v)

/-! ## Packet buffers -/

/-- The byte offset of TX buffer `i` in TXB (R83). -/
def txBufAt (i : Nat) : Nat := i * Config.txBufSize
/-- The byte offset of RX buffer `i` in RXB (R83). -/
def rxBufAt (i : Nat) : Nat := i * Config.rxBufSize

/-- `TXB[i][a:b)` (R83). -/
def State.txBuf (s : State) (i a b : Nat) : Bytes := s.txb.bytes (txBufAt i + a) (b - a)
/-- `RXB[i][a:b)` (R83). -/
def State.rxBuf (s : State) (i a b : Nat) : Bytes := s.rxb.bytes (rxBufAt i + a) (b - a)

/-- `TXB[i][0:|v|) <- v`. -/
def State.writeTxBuf (s : State) (i : Nat) (v : Bytes) : State := s.setTxb (s.txb.writeBytes (txBufAt i) v)
/-- `RXB[i][0:|v|) <- v`. -/
def State.writeRxBuf (s : State) (i : Nat) (v : Bytes) : State := s.setRxb (s.rxb.writeBytes (rxBufAt i) v)

/-- The bus address of TX buffer `i`, the platform's `TX_BUF_ADDR(i)` (R11). -/
def txBufAddrOf (p : Platform) (i : Nat) : BusAddr := p.txBufAddr.toList.getD i 0
/-- The bus address of RX buffer `i`, the platform's `RX_BUF_ADDR(i)` (R11). -/
def rxBufAddrOf (p : Platform) (i : Nat) : BusAddr := p.rxBufAddr.toList.getD i 0

/-! ## TRANSMIT's data operand -/

/-- `data[0:LEN)`: only these bytes of the operand are used (R115). -/
def packetOf (len : Half) (data : Bytes) : Bytes := data.take len.toNat

end Sys2Proof.Machine
end

