-- ==== Sys2Proof/Machine/Flags.lean ====
section
/-! DEFINITION. The flag bits and register fields: positions (R120 to R124, R131 to R135), the flag computations the
commands and engines make (R52 to R54), and the conditions under which an engine may step (R196, R237 to R239). -/

namespace Sys2Proof.Machine

/-! ## Bits of the descriptor bytes -/

/-- Bits of the TX cmd byte (R120). -/
inductive TxCmdBit where
  | eop | ifcs | ic | rs | rps | dext | vle | ide
deriving DecidableEq, Repr

def TxCmdBit.pos : TxCmdBit → Nat
  | .eop => 0
  | .ifcs => 1
  | .ic => 2
  | .rs => 3
  | .rps => 4
  | .dext => 5
  | .vle => 6
  | .ide => 7

/-- Bits of the TX status byte (R121); bits 7:4 are reserved. -/
inductive TxStatusBit where
  | dd | ec | lc | tu
deriving DecidableEq, Repr

def TxStatusBit.pos : TxStatusBit → Nat
  | .dd => 0
  | .ec => 1
  | .lc => 2
  | .tu => 3

/-- Bits of the RX status byte (R123); bit 4 is reserved. -/
inductive RxStatusBit where
  | dd | eop | ixsm | vp | tcpcs | ipcs | pif
deriving DecidableEq, Repr

def RxStatusBit.pos : RxStatusBit → Nat
  | .dd => 0
  | .eop => 1
  | .ixsm => 2
  | .vp => 3
  | .tcpcs => 5
  | .ipcs => 6
  | .pif => 7

/-- Bits of the RX errors byte (R124); bit 3 is reserved. -/
inductive RxErrorBit where
  | ce | se | seq | cxe | tcpe | ipe | rxe
deriving DecidableEq, Repr

def RxErrorBit.pos : RxErrorBit → Nat
  | .ce => 0
  | .se => 1
  | .seq => 2
  | .cxe => 4
  | .tcpe => 5
  | .ipe => 6
  | .rxe => 7

/-! ## Flag computations -/

/-- DD of TX slot `i` is set: the slot is FREE, software's (R52, R62). -/
def State.txDone (s : State) (i : Nat) : Bool := (s.txDesc i).status.getLsbD TxStatusBit.dd.pos
/-- DD of RX slot `i` is set: the slot is SW_OWNED (R53, R62). -/
def State.rxDone (s : State) (i : Nat) : Bool := (s.rxDesc i).status.getLsbD RxStatusBit.dd.pos

/-- EOP of a TX cmd byte (R54). -/
def cmdEop (cmd : Byte) : Bool := cmd.getLsbD TxCmdBit.eop.pos

/-- The cmd byte TRANSMIT writes, RS and EOP (R120). -/
def cmdRsEop : Byte := (1 <<< TxCmdBit.rs.pos) ||| (1 <<< TxCmdBit.eop.pos)

/-- The status byte TXE writes back, and ATTACH leaves: DD alone (R198, R154). -/
def statusDone : Byte := 1 <<< TxStatusBit.dd.pos

/-- TRANSMIT's status write: DD cleared, the rest kept (R183). -/
def clearTxDone (status : Byte) : Byte := status &&& 0xFE

/-- RECEIVE's status write: DD and EOP cleared, the rest kept (R226). -/
def clearRxDoneEop (status : Byte) : Byte := status &&& 0xFC

/-- RXE's status write: EOP = DD = 1 under any six bits (R240). -/
def statusFilled (high : BitVec 6) : Byte := (high.setWidth 8 <<< 2) ||| 3

/-! ## Register fields -/

/-- TCTL (R131). -/
structure TctlFields where
  en : Bool
  psp : Bool
  ct : BitVec 8
  cold : BitVec 10
  swxoff : Bool
  rtlc : Bool
  nrtu : Bool
deriving DecidableEq, Repr

def tctlFields (w : Word) : TctlFields where
  en := w.getLsbD 1
  psp := w.getLsbD 3
  ct := w.extractLsb' 4 8
  cold := w.extractLsb' 12 10
  swxoff := w.getLsbD 22
  rtlc := w.getLsbD 24
  nrtu := w.getLsbD 25

/-- RCTL (R133). -/
structure RctlFields where
  en : Bool
  sbp : Bool
  upe : Bool
  mpe : Bool
  lpe : Bool
  lbm : BitVec 2
  rdmts : BitVec 2
  mo : BitVec 2
  bam : Bool
  bsize : BitVec 2
  vfe : Bool
  cfien : Bool
  cfi : Bool
  dpf : Bool
  pmcf : Bool
  bsex : Bool
  secrc : Bool
deriving DecidableEq, Repr

def rctlFields (w : Word) : RctlFields where
  en := w.getLsbD 1
  sbp := w.getLsbD 2
  upe := w.getLsbD 3
  mpe := w.getLsbD 4
  lpe := w.getLsbD 5
  lbm := w.extractLsb' 6 2
  rdmts := w.extractLsb' 8 2
  mo := w.extractLsb' 12 2
  bam := w.getLsbD 15
  bsize := w.extractLsb' 16 2
  vfe := w.getLsbD 18
  cfien := w.getLsbD 19
  cfi := w.getLsbD 20
  dpf := w.getLsbD 22
  pmcf := w.getLsbD 23
  bsex := w.getLsbD 25
  secrc := w.getLsbD 26

/-- TIPG (R132). -/
structure TipgFields where
  ipgt : BitVec 10
  ipgr1 : BitVec 10
  ipgr2 : BitVec 10
deriving DecidableEq, Repr

def tipgFields (w : Word) : TipgFields where
  ipgt := w.extractLsb' 0 10
  ipgr1 := w.extractLsb' 10 10
  ipgr2 := w.extractLsb' 20 10

/-- RAH (R134); RAL is four address bytes. -/
structure RahFields where
  m4 : Byte
  m5 : Byte
  asel : BitVec 2
  av : Bool
deriving DecidableEq, Repr

def rahFields (w : Word) : RahFields where
  m4 := w.extractLsb' 0 8
  m5 := w.extractLsb' 8 8
  asel := w.extractLsb' 16 2
  av := w.getLsbD 31

/-- RAL of a MAC address: `m0 | m1<<8 | m2<<16 | m3<<24` (R134). -/
def ralOf (m : Vector Byte 6) : Word :=
  m[0].setWidth 32 ||| (m[1].setWidth 32 <<< 8) ||| (m[2].setWidth 32 <<< 16) ||| (m[3].setWidth 32 <<< 24)

/-- RAH of a MAC address, AV set: `m4 | m5<<8 | 1<<31` (R134). -/
def rahOf (m : Vector Byte 6) : Word := m[4].setWidth 32 ||| (m[5].setWidth 32 <<< 8) ||| (1 <<< 31)

/-- TDLEN and RDLEN: the ring length in units of 128 bytes, bits 19:7 (R135). -/
def lenUnits (w : Word) : BitVec 13 := w.extractLsb' 7 13

/-- TDH, TDT, RDH and RDT: the descriptor index, bits 15:0 (R135). -/
def cursorIndex (w : Word) : Half := w.extractLsb' 0 16

/-! ## When an engine may step -/

/-- TCTL.EN. -/
def State.txEnable (s : State) : Bool := (tctlFields (s.reg .tctl)).en
/-- RCTL.EN. -/
def State.rxEnable (s : State) : Bool := (rctlFields (s.reg .rctl)).en

/-- TXE may step: TCTL.EN = 1 and the window `[TDH, TDT)` is not empty (R196). -/
def State.txeEnabled (s : State) : Bool := s.txEnable && s.reg .tdh != s.reg .tdt

/-- `avail(h)` of R236 under the platform's policy (R238, R239); RDT is compared as a raw register value. -/
def State.rxAvail (s : State) (h : Nat) : Bool :=
  match s.platform.rxAvailPolicy with
  | .doneBit => !s.rxDone h
  | .window => !s.rxDone h && decide (h ≠ (s.reg .rdt).toNat)

/-- RXE may step: RCTL.EN = 1 and `avail(RDH)` (R237). -/
def State.rxeEnabled (s : State) : Bool := s.rxEnable && s.rxAvail (s.reg .rdh).toNat

end Sys2Proof.Machine
end

