-- ==== Sys2Proof/Machine/Attach.lean ====
section
/-! DEFINITION. ATTACH (R150 to R165). -/

namespace Sys2Proof.Machine

/-! ## `check_platform` (R165) -/

/-- A ring or a buffer in bus-address space. -/
structure Region where
  base : BusAddr
  size : Nat
deriving DecidableEq, Repr

/-- Two regions share a bus address. Bus addresses have 64 bits and wrap (DESIGN CHOICE, log entry 6). -/
def Region.overlaps (r q : Region) : Bool :=
  decide ((q.base - r.base).toNat < r.size) || decide ((r.base - q.base).toNat < q.size)

/-- The two rings and all the buffers (R11, R82, R83). -/
def platformRegions (p : Platform) : List Region :=
  [⟨p.txRingBase, Config.txCap * Config.descSize⟩, ⟨p.rxRingBase, Config.rxCap * Config.descSize⟩]
    ++ p.txBufAddr.toList.map (fun a => ⟨a, Config.txBufSize⟩)
    ++ p.rxBufAddr.toList.map (fun a => ⟨a, Config.rxBufSize⟩)

/-- No two regions of the list overlap. -/
def disjointRegions : List Region → Bool
  | [] => true
  | r :: rs => rs.all (fun q => !r.overlaps q) && disjointRegions rs

/-- A ring base is a multiple of 16 (R11, R87). -/
def ringAligned (a : BusAddr) : Bool := a.toNat % 16 == 0

/-- `check_platform()` passes: both ring bases aligned and nothing overlaps (R165). -/
def platformValid (p : Platform) : Bool :=
  ringAligned p.txRingBase && ringAligned p.rxRingBase && disjointRegions (platformRegions p)

/-! ## TX init and RX init -/

/-- TX descriptor `i` as ATTACH leaves it: all 0 but its buffer's address and DD (R154). -/
def txDescInit (p : Platform) (i : Nat) : TxDesc where
  addr := txBufAddrOf p i
  length := 0
  cso := 0
  cmd := 0
  status := statusDone
  css := 0
  special := 0

/-- RX descriptor `i` as ATTACH leaves it: all 0 but its buffer's address (R158). -/
def rxDescInit (p : Platform) (i : Nat) : RxDesc where
  addr := rxBufAddrOf p i
  length := 0
  checksum := 0
  status := 0
  errors := 0
  special := 0

/-- The TX ring as ATTACH leaves it: every byte of TXD is written (R154). -/
def initTxd (p : Platform) : Memory :=
  Memory.ofBytes 0 ((List.range Config.txCap).flatMap fun i => txDescBytes (txDescInit p i))

/-- The RX ring as ATTACH leaves it: every byte of RXD is written (R158). -/
def initRxd (p : Platform) : Memory :=
  Memory.ofBytes 0 ((List.range Config.rxCap).flatMap fun i => rxDescBytes (rxDescInit p i))

/-- TX init: descriptors (R154), buffers (R155), registers (R156) with TCTL after the ring's own (R157). -/
def State.txInit (s : State) : State :=
  s.setTxd (initTxd s.platform)
    |>.setTxb Memory.zeros
    |>.setReg .tdbal (s.platform.txRingBase.extractLsb' 0 32)
    |>.setReg .tdbah (s.platform.txRingBase.extractLsb' 32 32)
    |>.setReg .tdlen (BitVec.ofNat 32 (Config.txCap * Config.descSize))
    |>.setReg .tdh 0
    |>.setReg .tdt 0
    |>.setReg .tctl Config.tctlInit
    |>.setReg .tipg s.platform.tipgInit.value

/-- RX init: descriptors (R158), buffers (R159), address filter (R160), ring registers (R161), enable last (R162). -/
def State.rxInit (s : State) : State :=
  s.setRxd (initRxd s.platform)
    |>.setRxb Memory.zeros
    |>.setReg .ral (ralOf Config.macAddr)
    |>.setReg .rah (rahOf Config.macAddr)
    |>.setReg .rdbal (s.platform.rxRingBase.extractLsb' 0 32)
    |>.setReg .rdbah (s.platform.rxRingBase.extractLsb' 32 32)
    |>.setReg .rdlen (BitVec.ofNat 32 (Config.rxCap * Config.descSize))
    |>.setReg .rdh 0
    |>.setReg .rdt (BitVec.ofNat 32 Config.rxCap)
    |>.setReg .rctl Config.rctlInit

/-- ATTACH once the status check has passed (R163). -/
def State.attachOk (s : State) : State := (s.txInit.rxInit.setAccum [] |>.setMode .attached).result .ok

/-- ATTACH (R150), the checks in the order of R300. -/
def State.attach (s : State) : State :=
  if !platformValid s.platform then s.refuse .platformInvalid
  else
    match s.mode with
    | .failed => s.fault .useAfterAttachFailure
    | .attached => s.fault .reattach
    | .unattached =>
      if s.reg .status = Config.statusSignature then s.attachOk
      else (s.setMode .failed).result .deviceAttachFailure

/-- The meaning of ATTACH: every outcome of R150 is a next state. -/
def execAttach (s : State) : Host.Outcome State Fault Refusal := .next s.attach

end Sys2Proof.Machine
end

