-- ==== Sys2Proof/Machine/Receive.lean ====
section
/-! DEFINITION. RECEIVE (R220 to R229). -/

namespace Sys2Proof.Machine

/-- The consumption index, `RDT mod RX_CAP` (R222). -/
def State.rxCursor (s : State) : Nat := (s.reg .rdt).toNat % Config.rxCap

/-- The hand-back of slot `c` (R226) and the cursor advance (R227). -/
def State.handBack (s : State) (c : Nat) : State :=
  (s.setRx c .status (clearRxDoneEop (s.rxDesc c).status)).setReg .rdt (BitVec.ofNat 32 (nextRx c))

/-- RECEIVE's OK: copy out the frame of slot `c` (R224), hand the slot back, answer with the data. -/
def State.receiveOk (s : State) (c : Nat) : State :=
  (s.handBack c).resultData (s.rxDesc c).length (s.rxBuf c 0 (s.rxDesc c).length.toNat)

/-- RECEIVE (R220), the checks in the order of R300. -/
def State.receive (s : State) : State :=
  match s.mode with
  | .unattached => s.fault .notAttached
  | .failed => s.fault .useAfterAttachFailure
  | .attached =>
    if !s.rxDone s.rxCursor then s.result .noPacketAvailable
    else if Config.rxBufSize < (s.rxDesc s.rxCursor).length.toNat then s.fault .invariantBroken
    else s.receiveOk s.rxCursor

/-- The meaning of RECEIVE: every outcome of R220 is a next state. -/
def execReceive (s : State) : Host.Outcome State Fault Refusal := .next s.receive

end Sys2Proof.Machine
end

