-- ==== Sys2Proof/Machine/Transmit.lean ====
section
/-! DEFINITION. TRANSMIT (R180 to R190). -/

namespace Sys2Proof.Machine

/-- The candidate slot, "the slot the new tail would occupy" (R182). -/
def State.txCandidate (s : State) : Nat := nextTx (s.reg .tdt).toNat

/-- The window would collapse: the candidate slot is the head slot (R185). -/
def State.txCollapses (s : State) : Bool := decide (s.txCandidate = (s.reg .tdh).toNat)

/-- Step 3, filling slot `c`, in the order of R183. -/
def State.fillTx (s : State) (c : Nat) (len : Half) (data : Bytes) : State :=
  let s := s.writeTxBuf c (packetOf len data)
  let s := s.setTx c .length len
  let s := s.setTx c .status (clearTxDone (s.txDesc c).status)
  s.setTx c .cmd cmdRsEop

/-- Steps 3 and 4: fill the candidate slot, publish it (R184), answer OK. -/
def State.transmitOk (s : State) (len : Half) (data : Bytes) : State :=
  ((s.fillTx s.txCandidate len data).setReg .tdt (BitVec.ofNat 32 s.txCandidate)).result .ok

/-- TRANSMIT (R180), the checks in the order of R300. -/
def State.transmit (s : State) (len : Half) (data : Bytes) : State :=
  match s.mode with
  | .unattached => s.fault .notAttached
  | .failed => s.fault .useAfterAttachFailure
  | .attached =>
    if Config.maxFrame ≤ len.toNat then s.result .packetTooLarge
    else if data.length < len.toNat then s.refuse .hostDataShort
    else if !s.txDone s.txCandidate then s.result .ringFull
    else if s.txCollapses then (s.raise .txWindowCollapse).transmitOk len data
    else s.transmitOk len data

/-- The meaning of TRANSMIT: every outcome of R180 is a next state. -/
def execTransmit (len : Half) (data : Bytes) (s : State) : Host.Outcome State Fault Refusal :=
  .next (s.transmit len data)

end Sys2Proof.Machine
end

