-- ==== Sys2Proof/Machine/Dispatch.lean ====
section
/-! DEFINITION. One meaning per command. -/

namespace Sys2Proof.Machine

def exec (i : Instr) (s : State) : Host.Outcome State Fault Refusal :=
  match i with
  | .attach => Sys2Proof.Machine.execAttach s
  | .transmit len data => Sys2Proof.Machine.execTransmit len data s
  | .receive => Sys2Proof.Machine.execReceive s

end Sys2Proof.Machine
end

