-- ==== Sys2Proof/Machine/Engines.lean ====
section
/-! DEFINITION. The two device-side engines: TXE's drain step (R195 to R204) and RXE's fill step (R236 to R246). -/

namespace Sys2Proof.Machine

/-! ## TXE -/

/-- What TXE does with the bytes of a drained slot (R197): with EOP the frame goes out, without it the bytes wait. -/
def State.emitDrained (s : State) (cmd : Byte) (bytes : Bytes) : State :=
  if cmdEop cmd then (s.emit (s.txAccum ++ bytes)).setAccum [] else s.setAccum (s.txAccum ++ bytes)

/-- Drain slot `h`: read it, write DD back (R198), advance the head (R199). -/
def State.drainSlot (s : State) (h : Nat) : State :=
  ((s.emitDrained (s.txDesc h).cmd (s.txBuf h 0 (s.txDesc h).length.toNat)).setTx h .status statusDone).setReg .tdh
    (BitVec.ofNat 32 (nextTx h))

/-- `txe.drain` (R195). Where TXE is not enabled the label changes nothing (DESIGN CHOICE, log entry 2). -/
def State.txeDrain (s : State) : State :=
  let h := (s.reg .tdh).toNat
  if !s.txeEnabled then s
  else if !Space.txd.holds (descAt h) Config.descSize then s.raise .invariantBroken
  else if Config.txBufSize < (s.txDesc h).length.toNat then s.raise .invariantBroken
  else s.drainSlot h

/-! ## RXE -/

/-- Deposit a frame in slot `h`, status last (R240), and advance the head (R241). -/
def State.fillSlot (s : State) (h : Nat) (frame : Bytes) (draw : RxDraw) : State :=
  let s := s.writeRxBuf h frame
  let s := s.setRx h .length (BitVec.ofNat 16 frame.length)
  let s := s.setRx h .checksum draw.checksum
  let s := s.setRx h .errors draw.errors
  let s := s.setRx h .special draw.special
  let s := s.setRx h .status (statusFilled draw.statusHigh)
  s.setReg .rdh (BitVec.ofNat 32 (nextRx h))

/-- `rxe.fill f` (R236). A frame RXE cannot take, or one longer than a buffer, is lost without trace (R242). -/
def State.rxeFill (s : State) (frame : Bytes) (draw : RxDraw) : State :=
  let h := (s.reg .rdh).toNat
  if Config.rxBufSize < frame.length then s
  else if !s.rxEnable then s
  else if !Space.rxd.holds (descAt h) Config.descSize then s.raise .invariantBroken
  else if !s.rxAvail h then s
  else s.fillSlot h frame draw

end Sys2Proof.Machine
end

