-- ==== Sys2Proof/Machine/Agents.lean ====
section
/-! DEFINITION. The three agents (R8, R305): what one label does. -/

namespace Sys2Proof.Machine

/-- HOST issues a command word with a data operand (R305): the word is decoded first (R300), and an illegal one raises
`IllegalCommand` (R114). -/
def hostCommand (w : Word) (data : Bytes) (s : State) : Host.Outcome State Fault Refusal :=
  match decode w data with
  | .ok i => exec i s
  | .error _ => .next (s.fault .illegalCommand)

/-- One step of the agent a label names (R92: whole steps). -/
def runLabel (l : Label) (s : State) : Host.Outcome State Fault Refusal :=
  match l with
  | .host w data => hostCommand w data s
  | .txeDrain => .next s.txeDrain
  | .rxeFill frame draw => .next (s.rxeFill frame draw)

/-- The state without its next label. -/
def State.dropLabel (s : State) : State := { s with pending := s.pending.tail }

/-- The next step of the machine: nothing once the refusal mark is set (R296), the agent the schedule names next, or,
with nothing scheduled, an idle step (R305, R308). -/
def nextStep (s : State) : Host.Outcome State Fault Refusal :=
  match s.refused with
  | some r => .refused (.afterRefusal r)
  | none =>
    match s.pending.head? with
    | none => .next s
    | some l => runLabel l s.dropLabel

/-- Put a host command at the head of the schedule. -/
def State.withCommand (s : State) (w : Word) (data : Bytes) : State := { s with pending := .host w data :: s.pending }

/-- The label `l` is enabled (R305): HOST always is, TXE per R196, RXE per R236 and R237. -/
def Label.enabled (l : Label) (s : State) : Bool :=
  match l with
  | .host _ _ => true
  | .txeDrain => s.txeEnabled
  | .rxeFill frame _ => decide (frame.length ≤ Config.rxBufSize) && s.rxeEnabled

end Sys2Proof.Machine
end

