-- ==== Sys2Proof/Machine/Step.lean ====
section
/-! DEFINITION. One step of the machine, and the host's way of placing its next command. -/

namespace Sys2Proof.Machine

/-- One step: the next label of the schedule (`nextStep`). -/
def step (s : State) : Host.Outcome State Fault Refusal := nextStep s

/-- The state whose very next step issues the word `w` with a data operand of zeros. The block fetches nothing (R58): a
command comes from outside, so this stands for the host's issuing it (log entry 5). -/
def State.withFetchWord (s : State) (_nbits w : Nat) : State :=
  s.withCommand (BitVec.ofNat 32 w) (zeroOperand (BitVec.ofNat 32 w))

end Sys2Proof.Machine
end

