-- ==== Sys2Proof/Machine/Pumps.lean ====
section
/-! DEFINITION. The host contract of 45_host_agents.md: the two packet pumps and the rendezvous IPC they use, composed with
the block (R6: they are software around it, no part of it and of `State`). The environment supplies the events. -/

namespace Sys2Proof.Machine

/-! ## The IPC page and the messages (R262 to R264) -/

/-- The contents of a page: exactly `PAGE_SIZE` bytes (R262). -/
abbrev PageBytes := Vector Byte Config.pageSize

/-- A page's contents with `bs` put over its first bytes. Bytes past the page's end would be cut off; a frame of at most
`RX_BUF_SIZE` bytes and its length fit (R267). -/
def PageBytes.put (old : PageBytes) (bs : Bytes) : PageBytes where
  toArray := ((bs ++ old.toList.drop bs.length).take Config.pageSize).toArray
  size_toArray := by
    simp only [List.size_toArray, List.length_take, List.length_append, List.length_drop, Vector.length_toList]
    omega

/-- A page that an IPC message carries: its identity (R267) and its contents. -/
structure Page where
  id : Nat
  bytes : PageBytes
deriving DecidableEq, Repr

/-- `P.length`: bytes 0 to 3, little-endian (R262). -/
def Page.length (p : Page) : Word := BitVec.ofNat 32 (leNat (p.bytes.toList.take 4))

/-- `P.data`: bytes 4 to 4 + length − 1 (R262), as far as the page goes. -/
def Page.data (p : Page) : Bytes := (p.bytes.toList.drop 4).take p.length.toNat

/-- A fresh page, whatever it held before, with a frame's length and bytes put in (R265). -/
def Page.ofFrame (id : Nat) (old : PageBytes) (frame : Bytes) : Page where
  id := id
  bytes := old.put (leBytes 4 frame.length ++ frame)

/-- A message as `ipc_recv` returns it (R264): who sent it, its request kind (R263) and its page. -/
structure Message where
  sender : Nat
  tag : Word
  page : Page
deriving DecidableEq, Repr

/-- A message as `ipc_try_send(dst, tag, page)` sends it (R264). -/
structure Sent where
  dst : Nat
  tag : Word
  page : Page
deriving DecidableEq, Repr

/-! ## The pumps -/

/-- Where the Input Pump stands in its loop (R265). -/
inductive InputPump where
  /-- Polling the block with RECEIVE. -/
  | polling
  /-- Holding one page and trying to send it (R268). -/
  | sending (page : Page)
deriving DecidableEq, Repr

/-- Where the Output Pump stands in its loop (R269). -/
inductive OutputPump where
  /-- Blocked in `ipc_recv`. -/
  | waiting
  /-- Trying TRANSMIT with these operands (R272). -/
  | transmitting (len : Half) (data : Bytes)
deriving DecidableEq, Repr

/-- The block with its two clients. -/
structure PumpSystem where
  dra : State
  /-- `NS_ID` (R263), a parameter without a default. -/
  nsId : Nat
  input : InputPump
  output : OutputPump
  /-- The identity the next fresh page gets: no two forwarded frames share one (R267). -/
  nextPage : Nat
  /-- The messages the Input Pump's sends have passed on, oldest first. -/
  sent : List Sent
deriving DecidableEq, Repr

/-- What happens next around the block. -/
inductive PumpEvent where
  /-- TXE takes a step. -/
  | txe
  /-- RXE takes a step. -/
  | rxe (frame : Bytes) (draw : RxDraw)
  /-- The Input Pump takes its next action: `freshBytes` is what a page it allocates held before, and `blocked` names the
  processes that are blocked in `ipc_recv` at this moment (R264). -/
  | inputPump (freshBytes : PageBytes) (blocked : List Nat)
  /-- Some process tries to send the Output Pump a message (R264). -/
  | message (m : Message)
  /-- The Output Pump takes its next action. -/
  | outputPump
deriving DecidableEq, Repr

/-- The response a command added, if it was answered. -/
def newResponse (before after : State) : Option Response := (after.responses.drop before.responses.length).head?

/-- Replace the block's state by the outcome of one of its steps. -/
def PumpSystem.after (sys : PumpSystem) (o : Host.Outcome State Fault Refusal) (k : State → PumpSystem) :
    Host.Outcome PumpSystem Fault Refusal :=
  match sys.dra.refused, o with
  | some r, _ => .refused (.afterRefusal r)
  | none, .next t => .next (k t)
  | none, .fault e => .fault e
  | none, .refused e => .refused e

/-- The Input Pump on RECEIVE's response: poll again on `NO_PACKET_AVAILABLE` (R266), else hold the frame in a fresh page
(R267), all `RLEN` bytes of it. -/
def PumpSystem.received (sys : PumpSystem) (freshBytes : PageBytes) (r : Response) : PumpSystem :=
  if r.code = ResultCode.noPacketAvailable.code then sys
  else { sys with input := .sending (Page.ofFrame sys.nextPage freshBytes r.data), nextPage := sys.nextPage + 1 }

/-- The message the Input Pump sends: `ipc_try_send(NS_ID, INPUT, P)` (R263, R265). -/
def PumpSystem.inputMessage (sys : PumpSystem) (page : Page) : Sent := ⟨sys.nsId, Config.nsreqInput, page⟩

/-- The Input Pump's attempt to send: it succeeds exactly when the destination is blocked in `ipc_recv`, and then the page
passes to it (R264); on failure the pump keeps the page (R268). -/
def PumpSystem.trySend (sys : PumpSystem) (page : Page) (blocked : List Nat) : PumpSystem :=
  if (sys.inputMessage page).dst ∈ blocked then
    { sys with input := .polling, sent := sys.sent ++ [sys.inputMessage page] }
  else sys

/-- `L = min(length, 0xFFFF)` (R271). -/
def clampLength (length : Word) : Half := BitVec.ofNat 16 (min length.toNat 0xFFFF)

/-- The Output Pump on a message: a wrong sender or tag is dropped (R270). Where the pump is not blocked in `ipc_recv` the
send fails and changes nothing (R264). -/
def PumpSystem.takeMessage (sys : PumpSystem) (m : Message) : PumpSystem :=
  match sys.output with
  | .waiting =>
    if m.sender = sys.nsId ∧ m.tag = Config.nsreqOutput then
      { sys with output := .transmitting (clampLength m.page.length) m.page.data }
    else sys
  | .transmitting _ _ => sys

/-- The Output Pump on TRANSMIT's response: try again on `RING_FULL`, otherwise go back to waiting (R272). -/
def PumpSystem.transmitted (sys : PumpSystem) (r : Response) : PumpSystem :=
  if r.code = ResultCode.ringFull.code then sys else { sys with output := .waiting }

/-- One event of the composed system. Once the block's refusal mark is set nothing has a meaning (R296). -/
def PumpSystem.step (sys : PumpSystem) (e : PumpEvent) : Host.Outcome PumpSystem Fault Refusal :=
  match e with
  | .txe => sys.after (runLabel .txeDrain sys.dra) fun t => { sys with dra := t }
  | .rxe frame draw => sys.after (runLabel (.rxeFill frame draw) sys.dra) fun t => { sys with dra := t }
  | .inputPump freshBytes blocked =>
    match sys.input with
    | .polling =>
      sys.after (hostCommand (encode .receive) [] sys.dra) fun t =>
        match newResponse sys.dra t with
        | some r => { sys with dra := t }.received freshBytes r
        | none => { sys with dra := t }
    | .sending page => sys.after (.next sys.dra) fun _ => sys.trySend page blocked
  | .message m => sys.after (.next sys.dra) fun _ => sys.takeMessage m
  | .outputPump =>
    match sys.output with
    | .waiting => sys.after (.next sys.dra) fun _ => sys
    | .transmitting len data =>
      sys.after (hostCommand (encode (.transmit len data)) data sys.dra) fun t =>
        match newResponse sys.dra t with
        | some r => { sys with dra := t }.transmitted r
        | none => { sys with dra := t }

end Sys2Proof.Machine
end

