-- ==== Sys2Proof/Machine/Assembler.lean ====
section
/-! DEFINITION. The assembler syntax of R127 and R129, the pseudo-instructions of R128 as host loops, and how a response is
written (R127). Text is a list of characters, so that the kernel can evaluate the parser. -/

namespace Sys2Proof.Machine

/-! ## Lines -/

/-- One line of host assembly, its literals read. -/
inductive AsmLine where
  | attach
  | transmit (len : Half) (data : Bytes)
  | receive
  /-- `.word`: a raw command word, illegal ones included. It has no data operand (see `AsmLine.label`). -/
  | word (w : Word)
  /-- `transmit_retry` (R128). -/
  | transmitRetry (len : Half) (data : Bytes)
  /-- `receive_poll` (R128). -/
  | receivePoll
  /-- `txe.drain` (R129). -/
  | txeDrain
  /-- `rxe.fill` (R129), with the free draws of the step. -/
  | rxeFill (frame : Bytes) (draw : RxDraw)
deriving DecidableEq, Repr

/-- The step a line asks for: of a pseudo-instruction, one try. DESIGN CHOICE (log entry 18): R127 gives a `.word` line no
data operand, so it presents an empty one even where its word is a legal TRANSMIT word; such a word with `LEN` from 1 to 1517
is then refused `HostDataShort` in mode ATTACHED (R115). -/
def AsmLine.label : AsmLine → Label
  | .attach => .host (encode .attach) []
  | .transmit len data => .host (encode (.transmit len data)) data
  | .receive => .host (encode .receive) []
  | .word w => .host w []
  | .transmitRetry len data => .host (encode (.transmit len data)) data
  | .receivePoll => .host (encode .receive) []
  | .txeDrain => .txeDrain
  | .rxeFill frame draw => .rxeFill frame draw

/-- The pseudo-instructions' loop condition (R128). -/
def AsmLine.repeats (l : AsmLine) (r : Response) : Bool :=
  match l with
  | .transmitRetry _ _ => r.code == ResultCode.ringFull.code
  | .receivePoll => r.code == ResultCode.noPacketAvailable.code
  | _ => false

/-- A host program in the middle of its run. -/
structure HostProgram where
  dra : State
  lines : List AsmLine
deriving DecidableEq, Repr

/-- Run one try of the current line; a pseudo-instruction stays current while its loop condition holds. -/
def HostProgram.step (p : HostProgram) : Host.Outcome HostProgram Fault Refusal :=
  match p.lines, p.dra.refused with
  | [], _ => .next p
  | _ :: _, some r => .refused (.afterRefusal r)
  | l :: rest, none =>
    match runLabel l.label p.dra with
    | .next t =>
      match newResponse p.dra t with
      | some r => .next ⟨t, if l.repeats r then l :: rest else rest⟩
      | none => .next ⟨t, rest⟩
    | .fault e => .fault e
    | .refused e => .refused e

/-- The yield between two tries (R128): another agent's step comes in between. -/
def HostProgram.yieldTo (p : HostProgram) (l : Label) : Host.Outcome HostProgram Fault Refusal :=
  match p.dra.refused, runLabel l p.dra with
  | some r, _ => .refused (.afterRefusal r)
  | none, .next t => .next { p with dra := t }
  | none, .fault e => .fault e
  | none, .refused e => .refused e

/-! ## Reading text -/

/-- The pieces of a line. -/
inductive AsmToken where
  | name (cs : List Char)
  | openList
  | closeList
  | comma
deriving DecidableEq, Repr

/-- End the name being read, if there is one; names are kept reversed while they grow. -/
def flushName (cs : List Char) (rest : List AsmToken) : List AsmToken :=
  match cs with
  | [] => rest
  | _ => .name cs.reverse :: rest

/-- Cut a line into pieces; `cs` is the name being read, reversed. DESIGN CHOICE (log entry 18): any number of spaces, none
too, may stand between two pieces. -/
def tokens (cs : List Char) : List Char → List AsmToken
  | [] => flushName cs []
  | c :: text =>
    if c = ' ' then flushName cs (tokens [] text)
    else if c = '[' then flushName cs (.openList :: tokens [] text)
    else if c = ']' then flushName cs (.closeList :: tokens [] text)
    else if c = ',' then flushName cs (.comma :: tokens [] text)
    else tokens (c :: cs) text

/-- The value of a digit in a base of at most 16. -/
def digitValue (base : Nat) (c : Char) : Option Nat :=
  let n := c.toNat
  let v := if 48 ≤ n ∧ n ≤ 57 then n - 48 else if 97 ≤ n ∧ n ≤ 102 then n - 87 else if 65 ≤ n ∧ n ≤ 70 then n - 55 else 16
  if v < base then some v else none

/-- The value of a string of digits, from the value read so far. -/
def digitsValue (base acc : Nat) : List Char → Option Nat
  | [] => some acc
  | c :: cs =>
    match digitValue base c with
    | some v => digitsValue base (base * acc + v) cs
    | none => none

/-- A decimal or `0x` literal. DESIGN CHOICE (log entry 18): of any number of digits, in a `.word` line too. -/
def literalValue : List Char → Option Nat
  | [] => none
  | '0' :: 'x' :: c :: cs => digitsValue 16 0 (c :: cs)
  | c :: cs => digitsValue 10 0 (c :: cs)

/-- A literal below a bound. -/
def boundedLiteral (bound : Nat) (cs : List Char) : Option Nat :=
  match literalValue cs with
  | some v => if v < bound then some v else none
  | none => none

/-- The bytes of a list after its first `[`, up to and with `]` at the end of the line. DESIGN CHOICE (log entry 18): one
comma may stand after the last byte, a form that R127 neither shows nor rules out. -/
def listBytes : List AsmToken → Option Bytes
  | [.closeList] => some []
  | [.name cs, .closeList] => (boundedLiteral 256 cs).map fun v => [BitVec.ofNat 8 v]
  | .name cs :: .comma :: rest =>
    match boundedLiteral 256 cs, listBytes rest with
    | some v, some bs => some (BitVec.ofNat 8 v :: bs)
    | _, _ => none
  | _ => none

/-- A data operand: a bracketed list, or `@name` with the byte strings the host has named (R127). -/
def operandBytes (named : List (List Char × Bytes)) : List AsmToken → Option Bytes
  | .openList :: rest => listBytes rest
  | [.name ('@' :: name)] => (named.find? fun p => p.1 == name).map fun p => p.2
  | _ => none

/-- The operands of TRANSMIT: `LEN`, a comma, the data operand. -/
def transmitOperands (named : List (List Char × Bytes)) : List AsmToken → Option (Half × Bytes)
  | .name cs :: .comma :: rest =>
    match boundedLiteral 65536 cs, operandBytes named rest with
    | some v, some bs => some (BitVec.ofNat 16 v, bs)
    | _, _ => none
  | _ => none

/-- A line's command name and its operands. -/
def assemble (named : List (List Char × Bytes)) (text : List Char) : Option AsmLine :=
  match tokens [] text with
  | [.name ['a', 't', 't', 'a', 'c', 'h']] => some .attach
  | [.name ['r', 'e', 'c', 'e', 'i', 'v', 'e']] => some .receive
  | [.name ['r', 'e', 'c', 'e', 'i', 'v', 'e', '_', 'p', 'o', 'l', 'l']] => some .receivePoll
  | [.name ['t', 'x', 'e', '.', 'd', 'r', 'a', 'i', 'n']] => some .txeDrain
  | [.name ['.', 'w', 'o', 'r', 'd'], .name ('0' :: 'x' :: cs)] =>
    (boundedLiteral (2 ^ 32) ('0' :: 'x' :: cs)).map fun v => .word (BitVec.ofNat 32 v)
  | .name ['r', 'x', 'e', '.', 'f', 'i', 'l', 'l'] :: .openList :: rest =>
    (listBytes rest).map fun bs => .rxeFill bs ⟨0, 0, 0, 0⟩
  | .name ['t', 'r', 'a', 'n', 's', 'm', 'i', 't'] :: rest => (transmitOperands named rest).map fun p => .transmit p.1 p.2
  | .name ['t', 'r', 'a', 'n', 's', 'm', 'i', 't', '_', 'r', 'e', 't', 'r', 'y'] :: rest =>
    (transmitOperands named rest).map fun p => .transmitRetry p.1 p.2
  | _ => none

/-! ## Writing responses -/

/-- The name of a CODE value (R117). -/
def codeName (c : BitVec 4) : String :=
  if c = ResultCode.ok.code then "OK"
  else if c = ResultCode.packetTooLarge.code then "PACKET_TOO_LARGE"
  else if c = ResultCode.ringFull.code then "RING_FULL"
  else if c = ResultCode.noPacketAvailable.code then "NO_PACKET_AVAILABLE"
  else if c = ResultCode.deviceAttachFailure.code then "DEVICE_ATTACH_FAILURE"
  else if c = ResultCode.faulted.code then "FAULTED"
  else "(never produced)"

/-- A list of bytes as R127 writes it, in decimal literals. -/
def listText (bs : Bytes) : String := "[" ++ String.intercalate ", " (bs.map fun b => toString b.toNat) ++ "]"

/-- A response as R127 writes it: with length and data where RECEIVE returned a frame. -/
def responseText (toReceive : Bool) (r : Response) : String :=
  if toReceive && r.code == ResultCode.ok.code then
    "-> OK len=" ++ toString r.rlen.toNat ++ " data=" ++ listText r.data
  else "-> " ++ codeName r.code

end Sys2Proof.Machine
end

