-- ==== Sys2Proof/Safety.lean ====
section
/-! DEFINITION. What claims about runs are stated in: clean states (R60, R61), runs of labels and TXE's fairness (R305,
R306), the state that reset leaves unspecified (R65), the state of each side of the block, and the invariants of the rings, of
memory and of the platform's addresses (R63, R64, R83). -/

namespace Sys2Proof.Machine

/-! ## Clean states -/

/-- No fault and no refusal: the states a property may be claimed of (R295, R296). -/
def State.clean (s : State) : Prop := s.faults = FaultSet.empty ∧ s.refused = none

/-! ## Runs (R305) -/

/-- The state after one label; it is `s` itself only where `runLabel` answers no next state, which it never does. -/
def State.after (s : State) (l : Label) : State :=
  match runLabel l s with
  | .next t => t
  | _ => s

/-- The state after a finite list of labels, the first taken first. -/
def State.afterAll (s : State) (ls : List Label) : State := ls.foldl State.after s

/-- The label is a TRANSMIT that is answered OK in `s`. -/
def Label.accepted (l : Label) (s : State) : Bool :=
  match l with
  | .host w data =>
    match decode w data with
    | .ok (.transmit _ _) =>
      match newResponse s (s.after l) with
      | some r => r.code == ResultCode.ok.code
      | none => false
    | _ => false
  | _ => false

/-- How many labels of the list are accepted TRANSMITs, run from `s`. -/
def acceptedCount : List Label → State → Nat
  | [], _ => 0
  | l :: ls, s => (if l.accepted s then 1 else 0) + acceptedCount ls (s.after l)

/-- An infinite run: at each point one enabled label is taken, or HOST stays idle (R305). -/
def IsRun (at_ : Nat → State) (label : Nat → Option Label) : Prop :=
  ∀ n, match label n with
    | none => at_ (n + 1) = at_ n
    | some l => (at_ n).refused = none ∧ l.enabled (at_ n) = true ∧ runLabel l (at_ n) = .next (at_ (n + 1))

/-- TXE is weakly fair (R204): if it is enabled from some point on, it steps after that point. -/
def TxeFair (at_ : Nat → State) (label : Nat → Option Label) : Prop :=
  ∀ n, (∀ m, n ≤ m → (at_ m).txeEnabled = true) → ∃ m, n ≤ m ∧ label m = some .txeDrain

/-! ## Reset's draws (R65) -/

/-- The two states agree on everything but what R65 leaves unspecified: every register but STATUS, and the four byte
spaces. -/
structure State.AgreesButDraws (s s' : State) : Prop where
  platform : s'.platform = s.platform
  status : s'.reg .status = s.reg .status
  mode : s'.mode = s.mode
  txAccum : s'.txAccum = s.txAccum
  txLog : s'.txLog = s.txLog
  faults : s'.faults = s.faults
  refused : s'.refused = s.refused
  pending : s'.pending = s.pending
  responses : s'.responses = s.responses

/-- Both EN bits are 0, as reset leaves them (R65). -/
def State.enginesOff (s : State) : Prop := s.txEnable = false ∧ s.rxEnable = false

/-! ## The two sides -/

/-- The registers of the TX side: TCTL and TIPG, and the TX ring's own. -/
def txRegs : List Reg := [.tctl, .tipg, .tdbal, .tdbah, .tdlen, .tdh, .tdt]

/-- The registers of the RX side: RCTL, the RX ring's own, and the address filter's. -/
def rxRegs : List Reg := [.rctl, .rdbal, .rdbah, .rdlen, .rdh, .rdt, .ral, .rah]

/-- The TX side of `t` is as in `s`: its registers, ring and buffers, and what TXE keeps and has sent. -/
def State.SameTx (s t : State) : Prop :=
  (∀ r ∈ txRegs, t.reg r = s.reg r) ∧ t.txd = s.txd ∧ t.txb = s.txb ∧ t.txAccum = s.txAccum ∧ t.txLog = s.txLog

/-- The RX side of `t` is as in `s`: its registers, ring and buffers. -/
def State.SameRx (s t : State) : Prop := (∀ r ∈ rxRegs, t.reg r = s.reg r) ∧ t.rxd = s.rxd ∧ t.rxb = s.rxb

/-! ## Memory -/

/-- The four byte spaces are in canonical form and list nothing outside their size (R80). -/
def State.memoryOk (s : State) : Prop :=
  (s.txd.wf = true ∧ s.txd.within Space.txd.size = true) ∧ (s.rxd.wf = true ∧ s.rxd.within Space.rxd.size = true) ∧
  (s.txb.wf = true ∧ s.txb.within Space.txb.size = true) ∧ (s.rxb.wf = true ∧ s.rxb.within Space.rxb.size = true)

/-- Every descriptor's address is its buffer's bus address (R83). -/
def State.addressesPaired (s : State) : Prop :=
  (∀ i < Config.txCap, (s.txDesc i).addr = txBufAddrOf s.platform i) ∧
  (∀ i < Config.rxCap, (s.rxDesc i).addr = rxBufAddrOf s.platform i)

/-- The four cursors are ring indices, but for RDT, which ATTACH sets to `RX_CAP` (R36, R37, R43, R44). -/
def State.cursorsInRange (s : State) : Prop :=
  (s.reg .tdh).toNat < Config.txCap ∧ (s.reg .tdt).toNat < Config.txCap ∧
  (s.reg .rdh).toNat < Config.rxCap ∧ (s.reg .rdt).toNat ≤ Config.rxCap

/-! ## The TX ring -/

/-- Slot `i` is the dummy slot, as ATTACH leaves slot 0 (R200). -/
def State.isDummy (s : State) (i : Nat) : Prop :=
  i = 0 ∧ (s.txDesc i).length = 0 ∧ (s.txDesc i).cmd = 0 ∧ s.txDone i = true

/-- The TX ring of R63, strengthened so that every step keeps it: the engine is enabled, nothing is accumulated (R56), a
slot with DD = 0 holds a packet of allowed length, and the dummy slot is met only at the head. -/
structure State.TxRing (s : State) : Prop where
  enabled : s.txEnable = true
  head : (s.reg .tdh).toNat < Config.txCap
  tail : (s.reg .tdt).toNat < Config.txCap
  window : ∀ i < Config.txCap, inWindow Config.txCap (s.reg .tdh).toNat (s.reg .tdt).toNat i = true →
    s.txDone i = false ∨ (s.isDummy i ∧ i = (s.reg .tdh).toNat)
  atTail : s.txDone (s.reg .tdt).toNat = false ∨ (s.isDummy (s.reg .tdt).toNat ∧ s.reg .tdt = s.reg .tdh)
  others : ∀ i < Config.txCap, inWindow Config.txCap (s.reg .tdh).toNat (s.reg .tdt).toNat i = false →
    i ≠ (s.reg .tdt).toNat → s.txDone i = true
  pending : ∀ i < Config.txCap, s.txDone i = false →
    (s.txDesc i).cmd = cmdRsEop ∧ (s.txDesc i).length.toNat < Config.maxFrame
  accum : s.txAccum = []

/-- The packet that TX slot `i` holds. -/
def State.txPacket (s : State) (i : Nat) : Bytes := s.txBuf i 0 (s.txDesc i).length.toNat

/-- The slots from TDH to TDT, both included, in ring order. -/
def State.txSlots (s : State) : List Nat :=
  (List.range (((s.reg .tdt).toNat + Config.txCap - (s.reg .tdh).toNat) % Config.txCap + 1)).map fun k =>
    ((s.reg .tdh).toNat + k) % Config.txCap

/-- The accepted packets TXE has not drained yet, oldest first (R202). -/
def State.txWaiting (s : State) : List Bytes := (s.txSlots.filter fun i => !s.txDone i).map s.txPacket

/-- The TX side after a collapse: every slot pending and the window empty (R336). -/
def State.txDead (s : State) : Prop :=
  s.mode = .attached ∧ (∀ i < Config.txCap, s.txDone i = false) ∧ s.reg .tdh = s.reg .tdt

/-! ## The RX ring -/

/-- The RX ring of R64 with `k` frames deposited and not yet consumed, the engine enabled. -/
structure State.RxRing (s : State) (k : Nat) : Prop where
  enabled : s.rxEnable = true
  count : k ≤ Config.rxCap
  head : (s.reg .rdh).toNat = (s.rxCursor + k) % Config.rxCap
  done : ∀ i < Config.rxCap, (s.rxDone i = true ↔ (i + Config.rxCap - s.rxCursor) % Config.rxCap < k)
  length : ∀ i < Config.rxCap, s.rxDone i = true → (s.rxDesc i).length.toNat ≤ Config.rxBufSize

/-- The frame that RX slot `i` holds. -/
def State.rxFrame (s : State) (i : Nat) : Bytes := s.rxBuf i 0 (s.rxDesc i).length.toNat

/-- The oldest `k` frames from the consumption index on, oldest first (R244). -/
def State.rxFrames (s : State) (k : Nat) : List Bytes :=
  (List.range k).map fun j => s.rxFrame ((s.rxCursor + j) % Config.rxCap)

end Sys2Proof.Machine
end

