-- ==== Sys2Proof/Certificates/Slice0/Obligations.lean ====
section
/-! DEFINITION. The statements for the provers, from the numbered rules of spec/. -/

open Sys2Proof Sys2Proof.Machine

/-! ## Encoding and decoding -/

/-- Decoding a command's word, with its data operand beside it, gives the command back, whatever its operands. -/
def Obligations.DecodeEncode : Prop :=
  ∀ i : Instr, decode (encode i) (operandOf i) = .ok i

/-- A word that decodes is the word of the command it decodes to, and TRANSMIT's operand is the one presented. -/
def Obligations.EncodeDecode : Prop :=
  ∀ (w : Word) (data : Bytes) (i : Instr), decode w data = .ok i →
    encode i = w ∧ ∀ len d, i = .transmit len d → d = data

/-- R114: a word is legal exactly when it matches a row, no word matches two, the legal words are those listed, and an
illegal one adds `IllegalCommand`, is answered FAULTED and changes nothing else. -/
def Obligations.LegalWords : Prop :=
  ∀ (w : Word) (data : Bytes) (s : State),
    ((∃ i, decode w data = .ok i) ↔ ∃ r ∈ opcodeTable, r.accepts w = true) ∧
    (∀ r ∈ opcodeTable, ∀ q ∈ opcodeTable, r.accepts w = true → q.accepts w = true → r = q) ∧
    ((∃ i, decode w data = .ok i) ↔
      w = 0x00000001 ∨ w = 0x00000003 ∨ ∃ len : BitVec 16, w = (len.setWidth 32 <<< 16) ||| 2) ∧
    ((∀ i, decode w data ≠ .ok i) →
      hostCommand w data s = .next
        { s with faults := { s.faults with illegalCommand := true }, responses := s.responses ++ [⟨0x0000000F, []⟩] })

/-- Words written out from R110's fields decode to what they stand for (E1 to E13 of 95_test_vectors.md). -/
def Obligations.SampleWords : Prop :=
  decode 0x00000001 [] = .ok .attach ∧
  decode 0x00050002 [1, 2, 10, 4, 5] = .ok (.transmit 5 [1, 2, 10, 4, 5]) ∧
  decode 0x05EE0002 [] = .ok (.transmit 1518 []) ∧
  decode 0xFFFF0002 [] = .ok (.transmit 65535 []) ∧
  decode 0x00000003 [] = .ok .receive ∧
  decode 0x00000000 [] = .error .illegalOp ∧
  decode 0x00010001 [] = .error .lenNotZero ∧
  decode 0x00000011 [] = .error .reservedBits ∧
  decode 0x00020003 [] = .error .lenNotZero ∧
  decode 0x80000003 [] = .error .lenNotZero ∧
  decode 0xFFFF0012 [] = .error .reservedBits ∧
  decode 0x0000000F [] = .error .illegalOp

/-! ## Steps -/

/-- A host command at the head of the schedule: step is exec of the decoded command on the state without that label. -/
def Obligations.StepRunsDecodedCommand : Prop :=
  ∀ (s : State) (w : Word) (data : Bytes) (rest : List Label) (i : Instr),
    s.refused = none → s.pending = .host w data :: rest → decode w data = .ok i →
    step s = exec i { s with pending := rest }

/-- An engine's label at the head of the schedule runs that engine, an illegal word raises its fault, and an empty
schedule leaves the state as it is. -/
def Obligations.StepRunsOtherLabels : Prop :=
  ∀ (s : State) (rest : List Label), s.refused = none →
    (s.pending = .txeDrain :: rest → step s = .next ({ s with pending := rest } : State).txeDrain) ∧
    (∀ frame draw, s.pending = .rxeFill frame draw :: rest →
      step s = .next (({ s with pending := rest } : State).rxeFill frame draw)) ∧
    (∀ w data e, s.pending = .host w data :: rest → decode w data = .error e →
      step s = .next { s with
        pending := rest, faults := { s.faults with illegalCommand := true },
        responses := s.responses ++ [⟨0x0000000F, []⟩] }) ∧
    (s.pending = [] → step s = .next s)

/-- The only thing that stops the machine is the refusal mark: every step of a state without it has a next state. -/
def Obligations.OnlyRefusalStops : Prop :=
  ∀ s : State, ((∃ t, step s = .next t) ↔ s.refused = none) ∧
    ∀ r, s.refused = some r → step s = .refused (.afterRefusal r)

/-- Every host command is answered by one response word with bits 15:4 zero and a CODE of R117, with a length and data
only for RECEIVE's OK; but a refused one is not answered, and only its mark is set. -/
def Obligations.EveryCommandAnsweredOnce : Prop :=
  ∀ (w : Word) (data : Bytes) (s : State), ∃ t, hostCommand w data s = .next t ∧
    ((∃ r : Response, t.responses = s.responses ++ [r] ∧ t.refused = s.refused ∧ r.word.extractLsb' 4 12 = 0 ∧
        (r.code.toNat ≤ 4 ∨ r.code.toNat = 15) ∧
        (r.rlen ≠ 0 ∨ r.data ≠ [] → decode w data = .ok .receive ∧ r.code = 0 ∧ r.data.length = r.rlen.toNat)) ∨
      (∃ reason, t = { s with refused := some reason }))

/-! ## Reset -/

/-- R65, R320: what reset leaves, on every platform, with every `DEVICE_STATUS` and for every draw of what the spec leaves
unspecified: the fixed values, the draws everywhere else, and both engines off. -/
def Obligations.ResetValues : Prop :=
  ∀ (p : Platform) (d : Word) (draw : ResetDraw),
    let s := State.resetFrom p d draw
    s.mode = .unattached ∧ (∀ k, s.faults.has k = false) ∧ s.refused = none ∧ s.txAccum = [] ∧ s.txLog = [] ∧
    s.reg .status = d ∧ (s.reg .tctl).getLsbD 1 = false ∧ (s.reg .rctl).getLsbD 1 = false ∧
    (∀ i, i ≠ 1 → (s.reg .tctl).getLsbD i = draw.regs.tctl.getLsbD i ∧ (s.reg .rctl).getLsbD i = draw.regs.rctl.getLsbD i) ∧
    (∀ r, r ≠ .status → r ≠ .tctl → r ≠ .rctl → s.reg r = draw.regs.get r) ∧
    s.txd = draw.txd ∧ s.rxd = draw.rxd ∧ s.txb = draw.txb ∧ s.rxb = draw.rxb ∧
    s.platform = p ∧ s.txeDrain = s ∧ ∀ frame draw, s.rxeFill frame draw = s

/-- R65, R322: the draws at reset are never read. Two resets that differ only in the draws, with the same schedule, agree on
all else, with both engines off; outside mode ATTACHED every step of two such states answers alike and keeps that, or is a
successful ATTACH, after which the states are equal but for CTRL; and CTRL no step reads or writes. -/
def Obligations.ResetDrawsNeverRead : Prop :=
  (∀ (p : Platform) (d : Word) (draw draw' : ResetDraw) (ls : List Label),
    let s : State := { State.resetFrom p d draw with pending := ls }
    let s' : State := { State.resetFrom p d draw' with pending := ls }
    s.AgreesButDraws s' ∧ s.mode ≠ .attached ∧ s.enginesOff ∧ s'.enginesOff) ∧
  (∀ s s' : State, s.AgreesButDraws s' → s.mode ≠ .attached → s.enginesOff → s'.enginesOff →
    (∃ r, step s = .refused r ∧ step s' = .refused r) ∨
    ∃ t t', step s = .next t ∧ step s' = .next t' ∧
      ((t.AgreesButDraws t' ∧ t.mode ≠ .attached ∧ t.enginesOff ∧ t'.enginesOff) ∨
        (t.mode = .attached ∧ t' = t.setReg .ctrl (s'.reg .ctrl)))) ∧
  (∀ (s : State) (v : Word), (∀ r, step s = .refused r → step (s.setReg .ctrl v) = .refused r) ∧
    ∀ t, step s = .next t → step (s.setReg .ctrl v) = .next (t.setReg .ctrl v) ∧ t.reg .ctrl = s.reg .ctrl)

/-! ## ATTACH -/

/-- R164: the state after a successful ATTACH, and that it is reached whenever the platform is valid, the mode is
UNATTACHED and STATUS holds the signature. -/
def Obligations.AttachLaunchState : Prop :=
  ∀ s : State, platformValid s.platform = true → s.mode = .unattached → s.reg .status = 0x80080783 →
    ∃ t, exec .attach s = .next t ∧ t.mode = .attached ∧
      t.reg .tdbal = s.platform.txRingBase.extractLsb' 0 32 ∧ t.reg .tdbah = s.platform.txRingBase.extractLsb' 32 32 ∧
      t.reg .tdlen = 0x00000400 ∧ t.reg .tdh = 0 ∧ t.reg .tdt = 0 ∧
      t.reg .tctl = 0x0004010A ∧
      t.reg .tipg = (match s.platform.tipgInit with | .ipgr1Four => 0x0060100A | .ipgr1Eight => 0x0060200A) ∧
      t.reg .rdbal = s.platform.rxRingBase.extractLsb' 0 32 ∧ t.reg .rdbah = s.platform.rxRingBase.extractLsb' 32 32 ∧
      t.reg .rdlen = 0x00000800 ∧ t.reg .rdh = 0 ∧ t.reg .rdt = 0x00000080 ∧
      t.reg .rctl = 0x04000002 ∧ t.reg .ral = 0x12005452 ∧ t.reg .rah = 0x80005634 ∧
      t.reg .ctrl = s.reg .ctrl ∧ t.reg .status = 0x80080783 ∧
      (∀ i, (h : i < 64) → t.txDesc i =
        { addr := s.platform.txBufAddr[i], length := 0, cso := 0, cmd := 0, status := 0x01, css := 0, special := 0 }) ∧
      (∀ i, (h : i < 128) → t.rxDesc i =
        { addr := s.platform.rxBufAddr[i], length := 0, checksum := 0, status := 0, errors := 0, special := 0 }) ∧
      (∀ a, t.txb.read a = 0) ∧ (∀ a, t.rxb.read a = 0) ∧
      t.txAccum = [] ∧ t.txLog = s.txLog ∧ t.faults = s.faults ∧ t.refused = s.refused ∧
      t.platform = s.platform ∧ t.pending = s.pending ∧ t.responses = s.responses ++ [⟨0x00000000, []⟩]

/-- R153: with any other STATUS, ATTACH sets FAILED, answers DEVICE_ATTACH_FAILURE and writes nothing else; engines that
were off stay off; and in mode FAILED every command raises `UseAfterAttachFailure` and changes nothing else, the mode and
the platform included. -/
def Obligations.AttachStatusMismatch : Prop :=
  ∀ s : State, platformValid s.platform = true → s.mode = .unattached → s.reg .status ≠ 0x80080783 →
    ∃ t, exec .attach s = .next t ∧ t = { s with mode := .failed, responses := s.responses ++ [⟨0x00000004, []⟩] } ∧
      ((s.reg .tctl).getLsbD 1 = false → t.txeEnabled = false) ∧
      ((s.reg .rctl).getLsbD 1 = false → t.rxeEnabled = false) ∧
      ∀ u : State, u.mode = .failed → u.platform = t.platform → ∀ i : Instr, exec i u = .next
        { u with faults := { u.faults with useAfterAttachFailure := true },
                 responses := u.responses ++ [⟨0x0000000F, []⟩] }

/-- R151 on a valid platform (R300 has the platform checked first): a second ATTACH faults and changes nothing else. -/
def Obligations.AttachOnlyOnce : Prop :=
  ∀ s : State, platformValid s.platform = true →
    (s.mode = .attached → exec .attach s = .next
      { s with faults := { s.faults with reattach := true }, responses := s.responses ++ [⟨0x0000000F, []⟩] }) ∧
    (s.mode = .failed → exec .attach s = .next
      { s with faults := { s.faults with useAfterAttachFailure := true },
               responses := s.responses ++ [⟨0x0000000F, []⟩] })

/-- R165, R300: in every mode, ATTACH on a platform with a misaligned ring base or with two regions that share a bus
address sets the refusal mark and nothing else. -/
def Obligations.AttachRefusesInvalidPlatform : Prop :=
  ∀ s : State,
    (s.platform.txRingBase.toNat % 16 ≠ 0 ∨ s.platform.rxRingBase.toNat % 16 ≠ 0 ∨
      ¬(platformRegions s.platform).Pairwise (fun r q =>
        ∀ j k : Nat, j < r.size → k < q.size → r.base + BitVec.ofNat 64 j ≠ q.base + BitVec.ofNat 64 k)) →
    exec .attach s = .next { s with refused := some .platformInvalid }

/-- R11, R165: the platform check passes exactly when both ring bases are multiples of 16 and no two of the rings and
buffers share a bus address. -/
def Obligations.PlatformCheckExact : Prop :=
  ∀ p : Platform, platformValid p = true ↔
    p.txRingBase.toNat % 16 = 0 ∧ p.rxRingBase.toNat % 16 = 0 ∧
    (platformRegions p).Pairwise (fun r q =>
      ∀ j k : Nat, j < r.size → k < q.size → r.base + BitVec.ofNat 64 j ≠ q.base + BitVec.ofNat 64 k)

/-! ## TRANSMIT -/

/-- R183, R184: in mode ATTACHED, with an allowed length, enough data and the candidate slot free, TRANSMIT fills that slot,
publishes it, answers OK, and leaves everything else; where the slot is the head slot it also marks `TxWindowCollapse`
(R185). -/
def Obligations.TransmitAccepts : Prop :=
  ∀ (s : State) (len : Half) (data : Bytes),
    let c := ((s.reg .tdt).toNat + 1) % 64
    s.mode = .attached → len.toNat < 1518 → len.toNat ≤ data.length → (s.txDesc c).status.getLsbD 0 = true →
    ∃ t, exec (.transmit len data) s = .next t ∧
      t.txBuf c 0 len.toNat = data.take len.toNat ∧
      (∀ a, a < c * 1518 ∨ c * 1518 + len.toNat ≤ a → t.txb.read a = s.txb.read a) ∧
      t.txDesc c = { s.txDesc c with length := len, status := (s.txDesc c).status &&& 0xFE, cmd := 0x09 } ∧
      (∀ i, i ≠ c → t.txDesc i = s.txDesc i) ∧
      t.reg .tdt = BitVec.ofNat 32 c ∧ (∀ r, r ≠ .tdt → t.reg r = s.reg r) ∧
      ((s.reg .tdh).toNat < 64 → inWindow 64 (t.reg .tdh).toNat (t.reg .tdt).toNat c = false) ∧
      t.responses = s.responses ++ [⟨0x00000000, []⟩] ∧
      t.faults = (if c = (s.reg .tdh).toNat then { s.faults with txWindowCollapse := true } else s.faults) ∧
      t.rxd = s.rxd ∧ t.rxb = s.rxb ∧ t.mode = s.mode ∧ t.txAccum = s.txAccum ∧
      t.txLog = s.txLog ∧ t.refused = s.refused ∧ t.pending = s.pending ∧ t.platform = s.platform

/-- R186: TRANSMIT, whatever its outcome, writes at most the candidate slot's first `LEN` buffer bytes, its length, cmd and
status bytes, TDT, the fault set, the refusal mark and a response; with any code but OK, only the fault set. -/
def Obligations.TransmitFrame : Prop :=
  ∀ (s t : State) (len : Half) (data : Bytes), exec (.transmit len data) s = .next t →
    let c := s.txCandidate
    (∀ r, r ≠ .tdt → t.reg r = s.reg r) ∧ (t.reg .tdt = s.reg .tdt ∨ t.reg .tdt = BitVec.ofNat 32 c) ∧
    (∀ a, a ≠ txAt c .length → a ≠ txAt c .length + 1 → a ≠ txAt c .cmd → a ≠ txAt c .status →
      t.txd.read a = s.txd.read a) ∧
    (∀ a, a < txBufAt c ∨ txBufAt c + len.toNat ≤ a → t.txb.read a = s.txb.read a) ∧
    t.rxd = s.rxd ∧ t.rxb = s.rxb ∧ t.mode = s.mode ∧ t.txAccum = s.txAccum ∧ t.txLog = s.txLog ∧
    t.platform = s.platform ∧ t.pending = s.pending ∧
    (∀ r : Response, t.responses = s.responses ++ [r] → r.code ≠ 0 →
      t = { s with faults := t.faults, responses := t.responses })

/-- R181: 1518 bytes and more are rejected before anything else is looked at, and nothing is written; the check reads the
length alone. -/
def Obligations.TransmitTooLarge : Prop :=
  ∀ (s : State) (len : Half) (data : Bytes), s.mode = .attached → 1518 ≤ len.toNat →
    exec (.transmit len data) s = .next { s with responses := s.responses ++ [⟨0x00000001, []⟩] }

/-- R182: with the candidate slot's DD clear, RING_FULL, and nothing is written. -/
def Obligations.TransmitRingFull : Prop :=
  ∀ (s : State) (len : Half) (data : Bytes), s.mode = .attached → len.toNat < 1518 → len.toNat ≤ data.length →
    (s.txDesc (((s.reg .tdt).toNat + 1) % 64)).status.getLsbD 0 = false →
    exec (.transmit len data) s = .next { s with responses := s.responses ++ [⟨0x00000002, []⟩] }

/-- R185: where the free candidate slot is the head slot, TRANSMIT records `TxWindowCollapse` and still does all that an
accepted TRANSMIT does; the window is empty afterwards. -/
def Obligations.TransmitCollapse : Prop :=
  ∀ (s : State) (len : Half) (data : Bytes),
    let c := ((s.reg .tdt).toNat + 1) % 64
    s.mode = .attached → len.toNat < 1518 → len.toNat ≤ data.length → (s.txDesc c).status.getLsbD 0 = true →
    c = (s.reg .tdh).toNat →
    ∃ t, exec (.transmit len data) s = .next t ∧
      t.faults = { s.faults with txWindowCollapse := true } ∧
      t.txBuf c 0 len.toNat = data.take len.toNat ∧
      t.txDesc c = { s.txDesc c with length := len, status := (s.txDesc c).status &&& 0xFE, cmd := 0x09 } ∧
      (∀ i, i ≠ c → t.txDesc i = s.txDesc i) ∧
      t.reg .tdt = t.reg .tdh ∧ t.txeEnabled = false ∧ t.responses = s.responses ++ [⟨0x00000000, []⟩]

/-- R115, R296, R300: a data operand shorter than an allowed length sets the refusal mark and nothing else, whatever the
ring holds. -/
def Obligations.TransmitShortData : Prop :=
  ∀ (s : State) (len : Half) (data : Bytes), s.mode = .attached → len.toNat < 1518 → data.length < len.toNat →
    exec (.transmit len data) s = .next { s with refused := some .hostDataShort }

/-- R300: TRANSMIT and RECEIVE outside mode ATTACHED fault before they look at anything, and change nothing else. -/
def Obligations.TransferNeedsAttach : Prop :=
  ∀ (s : State) (i : Instr), i ≠ .attach →
    (s.mode = .unattached → exec i s = .next
      { s with faults := { s.faults with notAttached := true }, responses := s.responses ++ [⟨0x0000000F, []⟩] }) ∧
    (s.mode = .failed → exec i s = .next
      { s with faults := { s.faults with useAfterAttachFailure := true },
               responses := s.responses ++ [⟨0x0000000F, []⟩] })

/-! ## RECEIVE -/

/-- R224, R226, R227: in mode ATTACHED, with DD set at the consumption index and a length a buffer can hold, RECEIVE
answers with exactly the frame, clears DD and EOP, advances RDT modulo 128, and leaves everything else. -/
def Obligations.ReceiveDelivers : Prop :=
  ∀ s : State,
    let c := (s.reg .rdt).toNat % 128
    s.mode = .attached → (s.rxDesc c).status.getLsbD 0 = true → (s.rxDesc c).length.toNat ≤ 2048 →
    ∃ (t : State) (r : Response), exec .receive s = .next t ∧ t.responses = s.responses ++ [r] ∧
      r.code = 0 ∧ r.rlen = (s.rxDesc c).length ∧ r.data = s.rxBuf c 0 (s.rxDesc c).length.toNat ∧
      t.rxDesc c = { s.rxDesc c with status := (s.rxDesc c).status &&& 0xFC } ∧
      (∀ i, i ≠ c → t.rxDesc i = s.rxDesc i) ∧
      t.reg .rdt = BitVec.ofNat 32 ((c + 1) % 128) ∧ (t.reg .rdt).toNat < 128 ∧
      (∀ q, q ≠ .rdt → t.reg q = s.reg q) ∧
      t.rxb = s.rxb ∧ t.txd = s.txd ∧ t.txb = s.txb ∧ t.mode = s.mode ∧ t.txAccum = s.txAccum ∧ t.txLog = s.txLog ∧
      t.faults = s.faults ∧ t.refused = s.refused ∧ t.pending = s.pending ∧ t.platform = s.platform

/-- R223: with DD clear at the consumption index, NO_PACKET_AVAILABLE, and nothing is written. -/
def Obligations.ReceiveEmpty : Prop :=
  ∀ s : State, s.mode = .attached → (s.rxDesc ((s.reg .rdt).toNat % 128)).status.getLsbD 0 = false →
    exec .receive s = .next { s with responses := s.responses ++ [⟨0x00000003, []⟩] }

/-- R225: with a length above 2048 in the descriptor, `InvariantBroken`, and nothing else is written. -/
def Obligations.ReceiveTooLong : Prop :=
  ∀ s : State,
    let c := (s.reg .rdt).toNat % 128
    s.mode = .attached → (s.rxDesc c).status.getLsbD 0 = true → 2048 < (s.rxDesc c).length.toNat →
    exec .receive s = .next
      { s with faults := { s.faults with invariantBroken := true }, responses := s.responses ++ [⟨0x0000000F, []⟩] }

/-- RECEIVE, whatever its outcome, writes at most the status byte of the slot at the consumption index, RDT, the fault set
and a response: no buffer byte and nothing of TX. -/
def Obligations.ReceiveFrame : Prop :=
  ∀ s t : State, exec .receive s = .next t →
    (∀ a, a ≠ rxAt s.rxCursor .status → t.rxd.read a = s.rxd.read a) ∧
    (∀ r, r ≠ .rdt → t.reg r = s.reg r) ∧ t.rxb = s.rxb ∧ t.txd = s.txd ∧ t.txb = s.txb ∧ t.mode = s.mode ∧
    t.txAccum = s.txAccum ∧ t.txLog = s.txLog ∧ t.refused = s.refused ∧ t.platform = s.platform ∧
    t.pending = s.pending ∧ ∃ r, t.responses = s.responses ++ [r]

/-! ## The engines -/

/-- R197, R198, R199: what an enabled TXE does with slot TDH, and what it leaves. -/
def Obligations.DrainSendsSlot : Prop :=
  ∀ s : State,
    let h := (s.reg .tdh).toNat
    let d := s.txDesc h
    (s.reg .tctl).getLsbD 1 = true → s.reg .tdh ≠ s.reg .tdt → h < 64 → d.length.toNat ≤ 1518 →
    let t := s.txeDrain
    (d.cmd.getLsbD 0 = true → t.txLog = s.txLog ++ [s.txAccum ++ s.txBuf h 0 d.length.toNat] ∧ t.txAccum = []) ∧
    (d.cmd.getLsbD 0 = false → t.txLog = s.txLog ∧ t.txAccum = s.txAccum ++ s.txBuf h 0 d.length.toNat) ∧
    t.txDesc h = { d with status := 0x01 } ∧ (∀ i, i ≠ h → t.txDesc i = s.txDesc i) ∧
    (∀ a, a ≠ txAt h .status → t.txd.read a = s.txd.read a) ∧
    t.reg .tdh = BitVec.ofNat 32 ((h + 1) % 64) ∧ (∀ r, r ≠ .tdh → t.reg r = s.reg r) ∧
    t.txb = s.txb ∧ t.rxd = s.rxd ∧ t.rxb = s.rxb ∧ t.mode = s.mode ∧ t.faults = s.faults ∧ t.refused = s.refused ∧
    t.platform = s.platform ∧ t.pending = s.pending ∧ t.responses = s.responses

/-- R195, R196, R301: a TXE that is not enabled does nothing; one that meets a length above its buffer, or a head outside
the ring (R81), marks `InvariantBroken` and leaves the rest, TDH included. -/
def Obligations.DrainOtherwise : Prop :=
  ∀ s : State,
    ((s.reg .tctl).getLsbD 1 = false ∨ s.reg .tdh = s.reg .tdt → s.txeDrain = s) ∧
    ((s.reg .tctl).getLsbD 1 = true → s.reg .tdh ≠ s.reg .tdt →
      (64 ≤ (s.reg .tdh).toNat ∨ 1518 < (s.txDesc (s.reg .tdh).toNat).length.toNat) →
      s.txeDrain = { s with faults := { s.faults with invariantBroken := true } })

/-- R240, R241 with R238 and R239: a frame of allowed length is deposited in slot RDH when its DD is 0 (and, under the
`Window` policy, RDH is not RDT), with the draws the step was given, and nothing else changes. -/
def Obligations.FillDeposits : Prop :=
  ∀ (s : State) (frame : Bytes) (draw : RxDraw),
    let h := (s.reg .rdh).toNat
    frame.length ≤ 2048 → (s.reg .rctl).getLsbD 1 = true → h < 128 → (s.rxDesc h).status.getLsbD 0 = false →
    (s.platform.rxAvailPolicy = .window → s.reg .rdh ≠ s.reg .rdt) →
    let t := s.rxeFill frame draw
    t.rxBuf h 0 frame.length = frame ∧
    (∀ a, a < h * 2048 ∨ h * 2048 + frame.length ≤ a → t.rxb.read a = s.rxb.read a) ∧
    (t.rxDesc h).addr = (s.rxDesc h).addr ∧ (t.rxDesc h).length.toNat = frame.length ∧
    (t.rxDesc h).checksum = draw.checksum ∧ (t.rxDesc h).errors = draw.errors ∧ (t.rxDesc h).special = draw.special ∧
    (t.rxDesc h).status.extractLsb' 2 6 = draw.statusHigh ∧ (t.rxDesc h).status.extractLsb' 0 2 = 3 ∧
    (∀ i, i ≠ h → t.rxDesc i = s.rxDesc i) ∧
    t.reg .rdh = BitVec.ofNat 32 ((h + 1) % 128) ∧ (∀ r, r ≠ .rdh → t.reg r = s.reg r) ∧
    t.txd = s.txd ∧ t.txb = s.txb ∧ t.mode = s.mode ∧ t.txAccum = s.txAccum ∧ t.txLog = s.txLog ∧
    t.faults = s.faults ∧ t.refused = s.refused ∧ t.platform = s.platform ∧ t.pending = s.pending ∧
    t.responses = s.responses

/-- R242: a frame that is too long, or that comes while RXE is off or has no slot, leaves no trace. Where RXE is on and the
frame is allowed but RDH lies outside the ring (R81; log entry 10), `InvariantBroken` is marked and the rest is left. -/
def Obligations.FrameLostWithoutTrace : Prop :=
  ∀ (s : State) (frame : Bytes) (draw : RxDraw),
    (2048 < frame.length ∨ (s.reg .rctl).getLsbD 1 = false → s.rxeFill frame draw = s) ∧
    ((s.reg .rdh).toNat < 128 →
      ((s.rxDesc (s.reg .rdh).toNat).status.getLsbD 0 = true ∨
        (s.platform.rxAvailPolicy = .window ∧ s.reg .rdh = s.reg .rdt)) →
      s.rxeFill frame draw = s) ∧
    (frame.length ≤ 2048 → (s.reg .rctl).getLsbD 1 = true → 128 ≤ (s.reg .rdh).toNat →
      s.rxeFill frame draw = { s with faults := { s.faults with invariantBroken := true } })

/-- Steps of the two sides commute: a drain with a fill and with RECEIVE, a fill with TRANSMIT. -/
def Obligations.SidesCommute : Prop :=
  ∀ (s : State) (frame : Bytes) (draw : RxDraw) (len : Half) (data : Bytes),
    s.txeDrain.rxeFill frame draw = (s.rxeFill frame draw).txeDrain ∧
    s.txeDrain.receive = s.receive.txeDrain ∧
    (s.rxeFill frame draw).transmit len data = (s.transmit len data).rxeFill frame draw

/-! ## Memory and registers -/

/-- Every step keeps the four byte spaces in canonical form and within their sizes. -/
def Obligations.StepKeepsMemory : Prop :=
  ∀ s t : State, s.memoryOk → step s = .next t → t.memoryOk

/-- The byte spaces of `State.resetWith` are in canonical form, on every platform. -/
def Obligations.ResetMemory : Prop :=
  ∀ (p : Platform) (d : Word), (State.resetWith p d).memoryOk

/-- Two memories in canonical form that read alike are the same data. -/
def Obligations.CanonicalMemoriesAgree : Prop :=
  ∀ m n : Memory, m.wf = true → n.wf = true → (∀ a, m.read a = n.read a) → m = n

/-- R81, R84, R86: `MemWrite` then `MemRead` of the same bytes gives them back, every other byte of the space and every
other space keep their values, and outside the space neither is defined; a register is one little-endian word at its
offset. -/
def Obligations.MemoryPrimitives : Prop :=
  ∀ (s : State) (sp : Space) (a : Nat) (v : Bytes), sp ≠ .reg →
    (a + v.length ≤ sp.size → ∃ t, s.memWrite sp a v = some t ∧ t.memRead sp a v.length = some v ∧
      (∀ x, x < a ∨ a + v.length ≤ x → (t.mem sp).read x = (s.mem sp).read x) ∧
      (∀ sq, sq ≠ sp → t.mem sq = s.mem sq) ∧ ∀ r, t.reg r = s.reg r) ∧
    (sp.size < a + v.length → s.memWrite sp a v = none ∧ s.memRead sp a v.length = none) ∧
    (∀ r : Reg, ∃ b, s.memRead .reg r.offset 4 = some b ∧ BitVec.ofNat 32 (leNat b) = s.reg r)

/-- R31, R130: every register has an offset of its own, a multiple of 4, and is found at it. -/
def Obligations.RegisterMap : Prop :=
  (∀ r : Reg, Reg.ofOffset r.offset = some r ∧ 4 * r.index = r.offset) ∧ Reg.all.length = 17

/-- R47, R32: a register holds the value last written to it, every other register is left, and STATUS is read-only. -/
def Obligations.RegisterHoldsLastWrite : Prop :=
  ∀ (s : State) (n q : Reg) (v : Word),
    (n ≠ .status → (s.setReg n v).reg n = v) ∧ (q ≠ n → (s.setReg n v).reg q = s.reg q) ∧
    (s.setReg .status v).reg .status = s.reg .status

/-- R125: a descriptor field is the little-endian value of its own bytes. -/
def Obligations.DescriptorBytes : Prop :=
  ∀ (s : State) (i : Nat),
    (i < 64 →
      s.memRead .txd (16 * i + 0) 8 = some (leBytes 8 (s.txDesc i).addr.toNat) ∧
      s.memRead .txd (16 * i + 8) 2 = some (leBytes 2 (s.txDesc i).length.toNat) ∧
      s.memRead .txd (16 * i + 10) 1 = some [(s.txDesc i).cso] ∧ s.memRead .txd (16 * i + 11) 1 = some [(s.txDesc i).cmd] ∧
      s.memRead .txd (16 * i + 12) 1 = some [(s.txDesc i).status] ∧ s.memRead .txd (16 * i + 13) 1 = some [(s.txDesc i).css] ∧
      s.memRead .txd (16 * i + 14) 2 = some (leBytes 2 (s.txDesc i).special.toNat)) ∧
    (i < 128 →
      s.memRead .rxd (16 * i + 0) 8 = some (leBytes 8 (s.rxDesc i).addr.toNat) ∧
      s.memRead .rxd (16 * i + 8) 2 = some (leBytes 2 (s.rxDesc i).length.toNat) ∧
      s.memRead .rxd (16 * i + 10) 2 = some (leBytes 2 (s.rxDesc i).checksum.toNat) ∧
      s.memRead .rxd (16 * i + 12) 1 = some [(s.rxDesc i).status] ∧ s.memRead .rxd (16 * i + 13) 1 = some [(s.rxDesc i).errors] ∧
      s.memRead .rxd (16 * i + 14) 2 = some (leBytes 2 (s.rxDesc i).special.toNat))

/-! ## Invariants of every step -/

/-- Until ATTACH has succeeded both enable bits are 0, so neither engine can step (R322); every step keeps that. -/
def Obligations.EnginesOffUntilAttached : Prop :=
  ∀ s t : State, (s.mode ≠ .attached → s.txEnable = false ∧ s.rxEnable = false) → step s = .next t →
    (t.mode ≠ .attached → t.txEnable = false ∧ t.rxEnable = false)

/-- Once attached, the cursors stay ring indices, RDT at most 128 (R36, R37, R43, R44); every step keeps that. -/
def Obligations.CursorsStayInRange : Prop :=
  ∀ s t : State, (s.mode = .attached → s.cursorsInRange) → step s = .next t → (t.mode = .attached → t.cursorsInRange)

/-- Once attached, every descriptor points to its own buffer (R83); every step keeps that. -/
def Obligations.AddressesStayPaired : Prop :=
  ∀ s t : State, (s.mode = .attached → s.addressesPaired) → step s = .next t → (t.mode = .attached → t.addressesPaired)

/-- R63 and R56, strengthened to be kept by every step (`State.TxRing`): once attached and with no collapse recorded, the
TX ring has its shape. -/
def Obligations.StepKeepsTxRing : Prop :=
  ∀ s t : State,
    (s.mode = .attached → s.faults.has .txWindowCollapse = false → s.TxRing) → step s = .next t →
    (t.mode = .attached → t.faults.has .txWindowCollapse = false → t.TxRing)

/-- R64, with RCTL.EN added to be kept by every step (`State.RxRing`): once attached, the RX ring has its shape, under
either policy. -/
def Obligations.StepKeepsRxRing : Prop :=
  ∀ s t : State, (s.mode = .attached → ∃ k, s.RxRing k) → step s = .next t → (t.mode = .attached → ∃ k, t.RxRing k)

/-- R60: raising a fault adds it, and no step removes one. -/
def Obligations.FaultsAreSticky : Prop :=
  (∀ (p : Platform) (d : Word) (draw : ResetDraw) (k : Fault), (State.resetFrom p d draw).faults.has k = false) ∧
  (∀ (s : State) (k j : Fault), (s.raise k).faults.has j = true ↔ j = k ∨ s.faults.has j = true) ∧
  ∀ (s t : State) (k : Fault), step s = .next t → s.faults.has k = true → t.faults.has k = true

/-- R55: the mode leaves UNATTACHED only by an ATTACH word, to ATTACHED or to FAILED, and no step leaves those two. -/
def Obligations.ModeTransitions : Prop :=
  ∀ s t : State, step s = .next t → t.mode ≠ s.mode →
    s.mode = .unattached ∧ (∃ data rest, s.pending = .host 0x00000001 data :: rest) ∧
    (t.mode = .failed ↔ s.reg .status ≠ 0x80080783)

/-! ## The TX protocol -/

/-- R190: with the TX ring in its shape, TRANSMIT is answered RING_FULL exactly when its candidate slot is pending, that
is, when the candidate slot is the head slot and TXE has not drained it. -/
def Obligations.RingFullExactly : Prop :=
  ∀ (s : State) (len : Half) (data : Bytes), s.mode = .attached → s.TxRing → len.toNat < 1518 → len.toNat ≤ data.length →
    ((∃ (t : State) (r : Response), exec (.transmit len data) s = .next t ∧ t.responses = s.responses ++ [r] ∧ r.code = 2) ↔
      s.txDone s.txCandidate = false) ∧
    (s.txDone s.txCandidate = false ↔
      s.txCandidate = (s.reg .tdh).toNat ∧ s.txDone (s.reg .tdh).toNat = false)

/-- R292: where TRANSMIT is answered RING_FULL, TXE is enabled, and after one step of it the same TRANSMIT is answered
OK. -/
def Obligations.RetryAfterDrainSucceeds : Prop :=
  ∀ (s : State) (len : Half) (data : Bytes), s.mode = .attached → s.TxRing → len.toNat < 1518 → len.toNat ≤ data.length →
    s.txDone s.txCandidate = false →
    s.txeEnabled = true ∧ ∃ (t : State) (r : Response), exec (.transmit len data) s.txeDrain = .next t ∧
      t.responses = s.responses ++ [r] ∧ r.code = 0

/-- R343: on a run with TXE weakly fair and no collapse, there is again and again a point at which a TRANSMIT of allowed
length would be answered OK; and one that HOST retries for ever, no other TRANSMIT being accepted, is answered OK at one of
its retries. -/
def Obligations.FairRetrySucceeds : Prop :=
  ∀ (at_ : Nat → State) (label : Nat → Option Label), IsRun at_ label → TxeFair at_ label →
    (at_ 0).mode = .attached → (at_ 0).TxRing → (∀ n, (at_ n).faults.has .txWindowCollapse = false) →
    ∀ (len : Half) (data : Bytes), len.toNat < 1518 → len.toNat ≤ data.length →
      (∀ n, ∃ m, n ≤ m ∧ ∃ (t : State) (r : Response), exec (.transmit len data) (at_ m) = .next t ∧
        t.responses = (at_ m).responses ++ [r] ∧ r.code = 0) ∧
      ∀ n, (∀ k, n ≤ k → ∃ m, k ≤ m ∧ label m = some (.host (encode (.transmit len data)) data)) →
        (∀ m l, n ≤ m → label m = some l → l.accepted (at_ m) = true → l = .host (encode (.transmit len data)) data) →
        ∃ m, n ≤ m ∧ label m = some (.host (encode (.transmit len data)) data) ∧
          ∃ r : Response, (at_ (m + 1)).responses = (at_ m).responses ++ [r] ∧ r.code = 0

/-- R202: frames leave in the order their TRANSMITs were accepted. In mode ATTACHED with the TX ring in its shape, the log
followed by the packets still waiting grows at its end by exactly the accepted packet on a step that is an accepted TRANSMIT
(R182) which does not collapse the window, and is unchanged by every step that is no accepted TRANSMIT; one that collapses
the window leaves the log (and see `CollapseIsDeadlock`). -/
def Obligations.TxKeepsOrder : Prop :=
  ∀ s t : State, s.mode = .attached → s.TxRing → step s = .next t →
    (∀ (len : Half) (data : Bytes) (rest : List Label),
      s.pending = .host (encode (.transmit len data)) data :: rest → len.toNat < 1518 → len.toNat ≤ data.length →
      s.txDone s.txCandidate = true →
      (s.txCandidate ≠ (s.reg .tdh).toNat → t.txLog ++ t.txWaiting = s.txLog ++ s.txWaiting ++ [data.take len.toNat]) ∧
      (s.txCandidate = (s.reg .tdh).toNat → t.txLog = s.txLog)) ∧
    ((∀ (len : Half) (data : Bytes) (rest : List Label),
        s.pending = .host (encode (.transmit len data)) data :: rest →
        1518 ≤ len.toNat ∨ data.length < len.toNat ∨ s.txDone s.txCandidate = false) →
      t.txLog ++ t.txWaiting = s.txLog ++ s.txWaiting)

/-- R189: after a successful ATTACH, whatever labels follow, TDT is the number of accepted TRANSMITs modulo 64. -/
def Obligations.TailCountsAccepted : Prop :=
  ∀ (s : State) (ls : List Label), platformValid s.platform = true → s.mode = .unattached → s.reg .status = 0x80080783 →
    ((s.attach.afterAll ls).reg .tdt).toNat = acceptedCount ls s.attach % 64

/-- R201: the packet just accepted stays behind: however often TXE steps, its slot is not drained and TDT stays there. -/
def Obligations.OneSlotLag : Prop :=
  ∀ (s : State) (len : Half) (data : Bytes), s.mode = .attached → len.toNat < 1518 → len.toNat ≤ data.length →
    s.txDone s.txCandidate = true →
    ∀ n : Nat,
      let t := State.txeDrain^[n] (s.transmit len data)
      t.txDone s.txCandidate = false ∧ (t.reg .tdt).toNat = s.txCandidate ∧
      t.txBuf s.txCandidate 0 len.toNat = data.take len.toNat

/-- R336: a collapse out of the ring's shape leaves every slot pending and the window empty; from there every step keeps
it so, nothing more is sent, and every TRANSMIT is answered RING_FULL. -/
def Obligations.CollapseIsDeadlock : Prop :=
  (∀ (s : State) (len : Half) (data : Bytes), s.mode = .attached → s.TxRing → len.toNat < 1518 → len.toNat ≤ data.length →
    s.txDone s.txCandidate = true → s.txCandidate = (s.reg .tdh).toNat → (s.transmit len data).txDead) ∧
  (∀ s t : State, s.txDead → step s = .next t → t.txDead ∧ t.txLog = s.txLog) ∧
  (∀ (s : State) (len : Half) (data : Bytes), s.txDead → len.toNat < 1518 → len.toNat ≤ data.length →
    ∃ (t : State) (r : Response), exec (.transmit len data) s = .next t ∧ t.responses = s.responses ++ [r] ∧ r.code = 2)

/-! ## The RX protocol -/

/-- R244, R245: under `DoneBit`, with `k` frames waiting, RXE can step exactly when `k < 128` and then puts its frame
behind them, and RECEIVE returns the oldest exactly when `k > 0`. -/
def Obligations.RxIsFifo : Prop :=
  ∀ (s : State) (k : Nat), s.RxRing k → s.platform.rxAvailPolicy = .doneBit →
    (s.rxeEnabled = true ↔ k < 128) ∧
    (∀ frame draw, frame.length ≤ 2048 → k < 128 →
      (s.rxeFill frame draw).RxRing (k + 1) ∧
      (s.rxeFill frame draw).rxFrames (k + 1) = s.rxFrames k ++ [frame]) ∧
    (∀ frame draw, ¬k < 128 → s.rxeFill frame draw = s) ∧
    (s.mode = .attached → 0 < k → ∃ (t : State) (r : Response), exec .receive s = .next t ∧ t.responses = s.responses ++ [r] ∧ r.code = 0 ∧
      t.RxRing (k - 1) ∧ s.rxFrames k = r.data :: t.rxFrames (k - 1)) ∧
    (s.mode = .attached → k = 0 → exec .receive s = .next (s.result .noPacketAvailable))

/-- R246: under `Window`, once RDH = RDT at a slot with DD clear, every step keeps that, no frame is deposited and RECEIVE
finds nothing. -/
def Obligations.WindowDeadlock : Prop :=
  ∀ s : State, s.platform.rxAvailPolicy = .window → s.mode = .attached → s.reg .rdh = s.reg .rdt →
    (s.reg .rdh).toNat < 128 → s.rxDone (s.reg .rdh).toNat = false →
    (∀ frame draw, s.rxeFill frame draw = s) ∧
    (∃ (t : State) (r : Response), exec .receive s = .next t ∧ t.responses = s.responses ++ [r] ∧ r.code = 3) ∧
    ∀ t, step s = .next t → t.platform.rxAvailPolicy = .window ∧ t.mode = .attached ∧ t.reg .rdh = t.reg .rdt ∧
      (t.reg .rdh).toNat < 128 ∧ t.rxDone (t.reg .rdh).toNat = false ∧ t.rxd = s.rxd ∧ t.rxb = s.rxb

/-! ## The host's pumps and pseudo-instructions -/

/-- R270, R264: a message from another sender or with another tag changes nothing, and neither does one that comes while
the Output Pump is not waiting. -/
def Obligations.OutputPumpDropsMisrouted : Prop :=
  ∀ (sys : PumpSystem) (m : Message), sys.dra.refused = none →
    (m.sender ≠ sys.nsId ∨ m.tag ≠ 11 → sys.step (.message m) = .next sys) ∧
    (∀ len data, sys.output = .transmitting len data → sys.step (.message m) = .next sys)

/-- R269, R271, R272: a message for the Output Pump sets it to TRANSMIT with the length clamped to 16 bits, which keeps
the verdict on the length, and with data that meet R115; on RING_FULL it tries the same packet again, on any other code it
goes back to waiting. -/
def Obligations.OutputPumpRetries : Prop :=
  (∀ (sys : PumpSystem) (m : Message), sys.dra.refused = none → sys.output = .waiting → m.sender = sys.nsId → m.tag = 11 →
    ∃ len, sys.step (.message m) = .next { sys with output := .transmitting len m.page.data } ∧
      len.toNat = min m.page.length.toNat 65535 ∧ (1518 ≤ len.toNat ↔ 1518 ≤ m.page.length.toNat) ∧
      (1518 ≤ len.toNat ∨ len.toNat ≤ m.page.data.length)) ∧
  (∀ (sys : PumpSystem) (len : Half) (data : Bytes), sys.dra.refused = none → sys.output = .transmitting len data →
    (1518 ≤ len.toNat ∨ len.toNat ≤ data.length) →
    ∃ (t : State) (r : Response), exec (.transmit len data) sys.dra = .next t ∧ t.responses = sys.dra.responses ++ [r] ∧
      sys.step .outputPump = .next { sys with dra := t, output := if r.code = 2 then .transmitting len data else .waiting })

/-- R263 to R268: polling an empty ring leaves the Input Pump polling; a received frame goes into a page of a new identity;
the page is sent to NS_ID with tag INPUT, which succeeds exactly when NS_ID is blocked in `ipc_recv`; while a send fails the
page is kept and the block is not polled. -/
def Obligations.InputPumpHoldsOneFrame : Prop :=
  ∀ (sys : PumpSystem) (fresh : PageBytes) (blocked : List Nat), sys.dra.refused = none →
    (sys.input = .polling → ∃ (t : State) (r : Response), exec .receive sys.dra = .next t ∧ t.responses = sys.dra.responses ++ [r] ∧
      (r.code = 3 → sys.step (.inputPump fresh blocked) = .next { sys with dra := t }) ∧
      (r.code = 0 → ∃ page, page.id = sys.nextPage ∧ page.length.toNat = r.data.length ∧ page.data = r.data ∧
        (∀ i, 4 + r.data.length ≤ i → (h : i < 4096) → page.bytes[i] = fresh[i]) ∧
        sys.step (.inputPump fresh blocked) =
          .next { sys with dra := t, input := .sending page, nextPage := sys.nextPage + 1 })) ∧
    (∀ page, sys.input = .sending page →
      (sys.nsId ∉ blocked → sys.step (.inputPump fresh blocked) = .next sys) ∧
      (sys.nsId ∈ blocked → sys.step (.inputPump fresh blocked) =
        .next { sys with input := .polling, sent := sys.sent ++ [⟨sys.nsId, 10, page⟩] }))

/-- R128: a pseudo-instruction issues its command and stays current exactly while the response asks for another try. -/
def Obligations.PseudoInstructionLoops : Prop :=
  ∀ (s : State) (rest : List AsmLine), s.refused = none →
    (∃ (t : State) (r : Response), exec .receive s = .next t ∧ t.responses = s.responses ++ [r] ∧
      HostProgram.step ⟨s, .receivePoll :: rest⟩ = .next ⟨t, if r.code = 3 then .receivePoll :: rest else rest⟩) ∧
    (∀ (len : Half) (data : Bytes), 1518 ≤ len.toNat ∨ len.toNat ≤ data.length →
      ∃ (t : State) (r : Response), exec (.transmit len data) s = .next t ∧ t.responses = s.responses ++ [r] ∧
        HostProgram.step ⟨s, .transmitRetry len data :: rest⟩ =
          .next ⟨t, if r.code = 2 then .transmitRetry len data :: rest else rest⟩)

/-! ## The two sides of the block -/

/-- TXE and TRANSMIT leave the RX side as it is, RXE and RECEIVE the TX side, whatever their outcome; every label but an
ATTACH word leaves CTRL, STATUS and the mode. -/
def Obligations.SidesLeaveEachOther : Prop :=
  ∀ s : State,
    (s.SameRx s.txeDrain ∧ ∀ (len : Half) (data : Bytes) (t : State), exec (.transmit len data) s = .next t → s.SameRx t) ∧
    ((∀ frame draw, s.SameTx (s.rxeFill frame draw)) ∧ ∀ t, exec .receive s = .next t → s.SameTx t) ∧
    ∀ (l : Label) (t : State), runLabel l s = .next t → (∀ data, l ≠ .host (encode .attach) data) →
      t.reg .ctrl = s.reg .ctrl ∧ t.reg .status = s.reg .status ∧ t.mode = s.mode
end

