-- ==== Sys2Proof/Laws/Memory.lean ====
section
/-! SUPPORT. The laws of one byte space: what a read gives after a write, that a write leaves every other byte, that every
operation keeps the canonical form and the size of the space, and the same for little-endian fields. -/

namespace Sys2Proof.Machine

/-! ## Byte order -/

@[simp] theorem leBytes_length (n v : Nat) : (leBytes n v).length = n := by
  induction n generalizing v with
  | zero => rfl
  | succ n ih => simp [leBytes, ih]

/-- Little-endian bytes read back as the value, as far as they reach (R84). -/
theorem leNat_leBytes (n v : Nat) : leNat (leBytes n v) = v % 256 ^ n := by
  induction n generalizing v with
  | zero => simp [leBytes, leNat, Nat.mod_one]
  | succ n ih =>
    rw [show (256 : Nat) ^ (n + 1) = 256 * 256 ^ n by ring, Nat.mod_mul]
    simp [leBytes, leNat, ih]

theorem leNat_lt (bs : Bytes) : leNat bs < 256 ^ bs.length := by
  induction bs with
  | nil => simp [leNat]
  | cons b bs ih =>
    have hb := b.isLt
    simp only [leNat, List.length_cons, pow_succ]
    omega

/-! ## One byte -/

theorem Memory.read_erase (m : Memory) (x y : Nat) :
    (m.erase x).read y = if y = x then Memory.unlisted else m.read y := by
  induction m with
  | nil => simp [Memory.erase, Memory.read]
  | cons c m ih =>
    obtain ⟨a, b⟩ := c
    by_cases hax : a = x
    · subst hax
      by_cases hy : y = a
      · subst hy
        simpa [Memory.erase] using ih
      · simp [Memory.erase, Memory.read, ih, hy]
    · by_cases hya : y = a
      · subst hya
        simp [Memory.erase, Memory.read, hax]
      · simp [Memory.erase, Memory.read, hax, hya, ih]

theorem Memory.mem_erase (m : Memory) (x : Nat) (c : Host.Cell) : c ∈ m.erase x ↔ c ∈ m ∧ c.1 ≠ x := by
  induction m with
  | nil => simp [Memory.erase]
  | cons d m ih =>
    obtain ⟨a, b⟩ := d
    by_cases hax : a = x
    · simp only [Memory.erase, hax, if_true, ih, List.mem_cons]
      constructor
      · rintro ⟨h, h'⟩; exact ⟨.inr h, h'⟩
      · rintro ⟨h | h, h'⟩
        · subst h; exact absurd rfl h'
        · exact ⟨h, h'⟩
    · simp only [Memory.erase, hax, if_false, List.mem_cons, ih]
      constructor
      · rintro (h | ⟨h, h'⟩)
        · subst h; exact ⟨.inl rfl, hax⟩
        · exact ⟨.inr h, h'⟩
      · rintro ⟨h | h, h'⟩
        · exact .inl h
        · exact .inr ⟨h, h'⟩

theorem Memory.read_insert (m : Memory) (x y : Nat) (v : Byte) (h : ∀ c ∈ m, c.1 ≠ x) :
    (m.insert x v).read y = if y = x then v else m.read y := by
  induction m with
  | nil => simp [Memory.insert, Memory.read]
  | cons c m ih =>
    obtain ⟨a, b⟩ := c
    have ha : a ≠ x := h (a, b) (by simp)
    have ih := ih fun c hc => h c (by simp [hc])
    by_cases hxa : x < a
    · simp [Memory.insert, hxa, Memory.read]
    · by_cases hya : y = a
      · subst hya
        simp [Memory.insert, hxa, Memory.read, ha]
      · simp [Memory.insert, hxa, Memory.read, hya, ih]

/-- A read after a write of one byte. -/
theorem Memory.read_write (m : Memory) (x y : Nat) (v : Byte) :
    (m.write x v).read y = if y = x then v else m.read y := by
  unfold Memory.write
  split
  · next h => simp [Memory.read_erase, h]
  · rw [Memory.read_insert _ _ _ _ fun c hc => ((Memory.mem_erase m x c).1 hc).2]
    by_cases hy : y = x <;> simp [hy, Memory.read_erase]

@[simp] theorem Memory.read_zeros (y : Nat) : Memory.zeros.read y = 0 := rfl

/-! ## The canonical form -/

theorem Memory.wfAbove_mono {lo : Option Nat} {a : Nat} {m : Memory} (h : Memory.wfAbove (some a) m = true)
    (hlo : ∀ l, lo = some l → l ≤ a) : Memory.wfAbove lo m = true := by
  cases m with
  | nil => rfl
  | cons c m =>
    obtain ⟨x, b⟩ := c
    cases lo with
    | none => simp_all [Memory.wfAbove]
    | some l =>
      have := hlo l rfl
      simp only [Memory.wfAbove, Bool.and_eq_true, decide_eq_true_eq] at h ⊢
      exact ⟨⟨by omega, h.1.2⟩, h.2⟩

theorem Memory.wfAbove_erase {lo : Option Nat} {m : Memory} (x : Nat) (h : Memory.wfAbove lo m = true) :
    Memory.wfAbove lo (m.erase x) = true := by
  induction m generalizing lo with
  | nil => rfl
  | cons c m ih =>
    obtain ⟨a, b⟩ := c
    simp only [Memory.wfAbove, Bool.and_eq_true] at h
    by_cases hax : a = x
    · simp only [Memory.erase, hax, if_true]
      refine ih (Memory.wfAbove_mono h.2 ?_)
      rintro l rfl
      have := h.1.1
      simp only [decide_eq_true_eq] at this
      omega
    · simp only [Memory.erase, hax, if_false, Memory.wfAbove, Bool.and_eq_true]
      exact ⟨h.1, ih h.2⟩

theorem Memory.wfAbove_insert {lo : Option Nat} {m : Memory} (x : Nat) (v : Byte) (h : Memory.wfAbove lo m = true)
    (hx : ∀ c ∈ m, c.1 ≠ x) (hlo : ∀ l, lo = some l → l < x) (hv : v ≠ Memory.unlisted) :
    Memory.wfAbove lo (m.insert x v) = true := by
  induction m generalizing lo with
  | nil => cases lo <;> simp_all [Memory.insert, Memory.wfAbove]
  | cons c m ih =>
    obtain ⟨a, b⟩ := c
    simp only [Memory.wfAbove, Bool.and_eq_true] at h
    have ha : a ≠ x := hx (a, b) (by simp)
    by_cases hxa : x < a
    · have hb : (b != Memory.unlisted) = true := h.1.2
      simp only [Memory.insert, hxa, if_true, Memory.wfAbove, Bool.and_eq_true, decide_eq_true_eq]
      refine ⟨⟨?_, by simpa using hv⟩, ⟨trivial, hb⟩, h.2⟩
      cases lo with
      | none => rfl
      | some l => simpa using hlo l rfl
    · simp only [Memory.insert, hxa, if_false, Memory.wfAbove, Bool.and_eq_true]
      refine ⟨h.1, ih h.2 (fun c hc => hx c (by simp [hc])) ?_⟩
      rintro l hl
      injection hl with hl
      omega

/-- A write keeps the canonical form. -/
theorem Memory.wf_write (m : Memory) (x : Nat) (v : Byte) (h : m.wf = true) : (m.write x v).wf = true := by
  unfold Memory.write
  split
  · exact Memory.wfAbove_erase x h
  · next hv =>
    exact Memory.wfAbove_insert x v (Memory.wfAbove_erase x h) (fun c hc => ((Memory.mem_erase m x c).1 hc).2)
      (fun _ hl => nomatch hl) hv

theorem Memory.mem_insert {m : Memory} {x : Nat} {v : Byte} {c : Host.Cell} (h : c ∈ m.insert x v) :
    c = (x, v) ∨ c ∈ m := by
  induction m with
  | nil => simpa [Memory.insert] using h
  | cons d m ih =>
    obtain ⟨a, b⟩ := d
    by_cases hxa : x < a
    · simpa [Memory.insert, hxa] using h
    · simp only [Memory.insert, hxa, if_false, List.mem_cons] at h
      rcases h with h | h
      · exact .inr (by simp [h])
      · rcases ih h with h | h
        · exact .inl h
        · exact .inr (by simp [h])

/-- A write inside a space of `n` bytes lists nothing outside it. -/
theorem Memory.within_write (n : Nat) (m : Memory) (x : Nat) (v : Byte) (hm : m.within n = true) (hx : x < n) :
    (m.write x v).within n = true := by
  have hm : ∀ c ∈ m, c.1 < n := by simpa [Memory.within] using hm
  simp only [Memory.within, List.all_eq_true, decide_eq_true_eq]
  intro c hc
  unfold Memory.write at hc
  split at hc
  · exact hm c ((Memory.mem_erase m x c).1 hc).1
  · rcases Memory.mem_insert hc with h | h
    · simpa [h] using hx
    · exact hm c ((Memory.mem_erase m x c).1 h).1

/-! ## Byte strings -/

/-- A read after a write of a byte string. -/
theorem Memory.read_writeBytes (m : Memory) (a : Nat) (bs : Bytes) (y : Nat) :
    (m.writeBytes a bs).read y = if a ≤ y ∧ y < a + bs.length then bs.getD (y - a) 0 else m.read y := by
  induction bs generalizing m a with
  | nil =>
    have : ¬(a ≤ y ∧ y < a + 0) := by omega
    simp [Memory.writeBytes]
  | cons b bs ih =>
    simp only [Memory.writeBytes, ih, Memory.read_write, List.length_cons]
    by_cases h1 : a + 1 ≤ y ∧ y < a + 1 + bs.length
    · have h2 : a ≤ y ∧ y < a + (bs.length + 1) := by omega
      have h3 : y - a = (y - (a + 1)) + 1 := by omega
      rw [if_pos h1, if_pos h2, h3, List.getD_cons_succ]
    · by_cases hy : y = a
      · subst hy
        simp
      · have h2 : ¬(a ≤ y ∧ y < a + (bs.length + 1)) := by omega
        rw [if_neg h1, if_neg h2, if_neg hy]

/-- A write leaves every byte it does not reach. -/
theorem Memory.read_writeBytes_other (m : Memory) (a y : Nat) (bs : Bytes) (h : y < a ∨ a + bs.length ≤ y) :
    (m.writeBytes a bs).read y = m.read y := by
  rw [Memory.read_writeBytes, if_neg]
  omega

theorem Memory.wf_writeBytes (m : Memory) (a : Nat) (bs : Bytes) (h : m.wf = true) : (m.writeBytes a bs).wf = true := by
  induction bs generalizing m a with
  | nil => exact h
  | cons b bs ih => exact ih _ _ (Memory.wf_write m a b h)

theorem Memory.within_writeBytes (n : Nat) (m : Memory) (a : Nat) (bs : Bytes) (h : m.within n = true)
    (ha : a + bs.length ≤ n) : (m.writeBytes a bs).within n = true := by
  induction bs generalizing m a with
  | nil => exact h
  | cons b bs ih =>
    simp only [List.length_cons] at ha
    exact ih _ _ (Memory.within_write n m a b h (by omega)) (by omega)

@[simp] theorem Memory.length_bytes (m : Memory) (a n : Nat) : (m.bytes a n).length = n := by
  induction n generalizing a with
  | zero => rfl
  | succ n ih => simp [Memory.bytes, ih]

theorem Memory.getD_bytes (m : Memory) (a n i : Nat) (h : i < n) : (m.bytes a n).getD i 0 = m.read (a + i) := by
  induction n generalizing a i with
  | zero => omega
  | succ n ih =>
    cases i with
    | zero => simp [Memory.bytes]
    | succ i =>
      simp only [Memory.bytes, List.getD_cons_succ]
      rw [ih (a + 1) i (by omega)]
      congr 1
      omega

/-- Reading depends on the bytes read alone. -/
theorem Memory.bytes_congr {m m' : Memory} {a n : Nat} (h : ∀ y, a ≤ y → y < a + n → m.read y = m'.read y) :
    m.bytes a n = m'.bytes a n := by
  induction n generalizing a with
  | zero => rfl
  | succ n ih =>
    simp only [Memory.bytes]
    rw [h a (by omega) (by omega), ih fun y h1 h2 => h y (by omega) (by omega)]

/-- The bytes written are read back. -/
theorem Memory.bytes_writeBytes_same (m : Memory) (a : Nat) (bs : Bytes) : (m.writeBytes a bs).bytes a bs.length = bs := by
  refine List.ext_getElem (by simp) fun i h1 h2 => ?_
  have := Memory.getD_bytes (m.writeBytes a bs) a bs.length i h2
  rw [Memory.read_writeBytes, if_pos (by omega)] at this
  rw [List.getD_eq_getElem _ _ (by simpa using h2), show a + i - a = i by omega, List.getD_eq_getElem _ _ h2] at this
  exact this

/-- A write leaves the bytes it does not reach. -/
theorem Memory.bytes_writeBytes_other (m : Memory) (a b n : Nat) (bs : Bytes) (h : a + bs.length ≤ b ∨ b + n ≤ a) :
    (m.writeBytes a bs).bytes b n = m.bytes b n :=
  Memory.bytes_congr fun y h1 h2 => by
    rw [Memory.read_writeBytes, if_neg]
    omega

/-! ## A memory made from a byte string -/

theorem Memory.read_ofBytes (a : Nat) (bs : Bytes) (y : Nat) :
    (Memory.ofBytes a bs).read y = if a ≤ y then bs.getD (y - a) 0 else 0 := by
  induction bs generalizing a with
  | nil => simp [Memory.ofBytes, Memory.read, Memory.unlisted]
  | cons b bs ih =>
    by_cases hy : y = a
    · subst hy
      by_cases hb : b = Memory.unlisted
      · simp only [Memory.ofBytes, hb, if_true, ih, le_refl, Nat.sub_self, List.getD_cons_zero]
        rw [if_neg (by omega)]
        rfl
      · simp [Memory.ofBytes, hb, Memory.read]
    · have hr : (Memory.ofBytes a (b :: bs)).read y = (Memory.ofBytes (a + 1) bs).read y := by
        by_cases hb : b = Memory.unlisted <;> simp [Memory.ofBytes, hb, Memory.read, hy]
      rw [hr, ih]
      by_cases h : a + 1 ≤ y
      · rw [if_pos h, if_pos (by omega), show y - a = (y - (a + 1)) + 1 by omega, List.getD_cons_succ]
      · rw [if_neg h, if_neg (by omega)]

theorem Memory.wfAbove_ofBytes (a : Nat) (bs : Bytes) (lo : Option Nat) (h : ∀ l, lo = some l → l < a) :
    Memory.wfAbove lo (Memory.ofBytes a bs) = true := by
  induction bs generalizing a lo with
  | nil => rfl
  | cons b bs ih =>
    by_cases hb : b = Memory.unlisted
    · simp only [Memory.ofBytes, hb, if_true]
      exact ih _ _ fun l hl => Nat.lt_succ_of_lt (h l hl)
    · simp only [Memory.ofBytes, hb, if_false, Memory.wfAbove, Bool.and_eq_true]
      refine ⟨⟨?_, by simpa using hb⟩, ih _ _ fun l hl => ?_⟩
      · cases lo with
        | none => rfl
        | some l => simpa using h l rfl
      · injection hl with hl
        omega

theorem Memory.wf_ofBytes (a : Nat) (bs : Bytes) : (Memory.ofBytes a bs).wf = true :=
  Memory.wfAbove_ofBytes a bs none fun _ hl => nomatch hl

theorem Memory.within_ofBytes (n a : Nat) (bs : Bytes) (h : a + bs.length ≤ n) : (Memory.ofBytes a bs).within n = true := by
  induction bs generalizing a with
  | nil => rfl
  | cons b bs ih =>
    simp only [List.length_cons] at h
    have ih := ih (a + 1) (by omega)
    by_cases hb : b = Memory.unlisted
    · simpa [Memory.ofBytes, hb] using ih
    · simp only [Memory.ofBytes, hb, if_false, Memory.within, List.all_cons, Bool.and_eq_true, decide_eq_true_eq]
      exact ⟨by omega, ih⟩

/-- Bytes read from a memory made of a byte string are that part of the string. -/
theorem Memory.bytes_ofBytes (bs : Bytes) (a n : Nat) (h : a + n ≤ bs.length) :
    (Memory.ofBytes 0 bs).bytes a n = (bs.drop a).take n := by
  refine List.ext_getElem (by simp; omega) fun i h1 h2 => ?_
  have hi : i < n := by simpa using h1
  have := Memory.getD_bytes (Memory.ofBytes 0 bs) a n i hi
  rw [Memory.read_ofBytes, if_pos (Nat.zero_le _), List.getD_eq_getElem _ _ (by simpa using hi),
    List.getD_eq_getElem _ _ (by omega)] at this
  simpa using this

/-- Part of the bytes read. -/
theorem Memory.drop_take_bytes (m : Memory) (a n k j : Nat) (h : k + j ≤ n) :
    ((m.bytes a n).drop k).take j = m.bytes (a + k) j := by
  refine List.ext_getElem (by simp; omega) fun i h1 h2 => ?_
  have hi : i < j := by simpa using h2
  have e1 := Memory.getD_bytes m a n (k + i) (by omega)
  have e2 := Memory.getD_bytes m (a + k) j i hi
  rw [List.getD_eq_getElem _ _ (by simp; omega)] at e1
  rw [List.getD_eq_getElem _ _ (by simpa using hi)] at e2
  simp only [List.getElem_take, List.getElem_drop, e1, e2]
  congr 1
  omega

/-! ## Fields -/

/-- A field is what its bytes say, read from a longer string of bytes that holds it. -/
theorem Memory.field_of_bytes (w : Nat) (m : Memory) (a n k : Nat) (h : k + w / 8 ≤ n) :
    m.field w (a + k) = BitVec.ofNat w (leNat (((m.bytes a n).drop k).take (w / 8))) := by
  rw [Memory.drop_take_bytes _ _ _ _ _ h, Memory.field]

/-- A whole field reads back as it was written. -/
theorem Memory.field_setField_same {w : Nat} (m : Memory) (a : Nat) (v : BitVec w) (hw : w % 8 = 0) :
    (m.setField a v).field w a = v := by
  have h : (256 : Nat) ^ (w / 8) = 2 ^ w := by
    rw [show (256 : Nat) = 2 ^ 8 from rfl, ← pow_mul]
    congr 1
    omega
  have hb := Memory.bytes_writeBytes_same m a (leBytes (w / 8) v.toNat)
  rw [leBytes_length] at hb
  simp only [Memory.field, Memory.setField, hb, leNat_leBytes, h]
  apply BitVec.eq_of_toNat_eq
  simp

/-- A write of one field leaves every field it does not reach. -/
theorem Memory.field_setField_other {w : Nat} (m : Memory) (a b w' : Nat) (v : BitVec w)
    (h : a + w / 8 ≤ b ∨ b + w' / 8 ≤ a) : (m.setField a v).field w' b = m.field w' b := by
  simp only [Memory.field, Memory.setField]
  rw [Memory.bytes_writeBytes_other]
  simpa using h

/-- A write of one field leaves every byte outside it. -/
theorem Memory.read_setField_other {w : Nat} (m : Memory) (a y : Nat) (v : BitVec w) (h : y < a ∨ a + w / 8 ≤ y) :
    (m.setField a v).read y = m.read y := by
  rw [Memory.setField, Memory.read_writeBytes, if_neg]
  simp only [leBytes_length]
  omega

theorem Memory.wf_setField {w : Nat} (m : Memory) (a : Nat) (v : BitVec w) (h : m.wf = true) :
    (m.setField a v).wf = true := Memory.wf_writeBytes m a _ h

theorem Memory.within_setField {w : Nat} (n : Nat) (m : Memory) (a : Nat) (v : BitVec w) (h : m.within n = true)
    (ha : a + w / 8 ≤ n) : (m.setField a v).within n = true :=
  Memory.within_writeBytes n m a _ h (by simpa using ha)

/-- A field of a space of zeros is 0. -/
theorem Memory.field_zeros (w a : Nat) : Memory.zeros.field w a = 0 := by
  have h : ∀ n a, leNat (Memory.zeros.bytes a n) = 0 := by
    intro n
    induction n with
    | zero => intro a; rfl
    | succ n ih => intro a; simp [Memory.bytes, leNat, ih]
  simp [Memory.field, h]

/-- A one-byte field is the byte itself. -/
theorem Memory.field_byte (m : Memory) (a : Nat) : m.field 8 a = m.read a := by
  simp [Memory.field, Memory.bytes, leNat]

end Sys2Proof.Machine
end

