-- ==== Sys2Proof/Laws/State.lean ====
section
/-! SUPPORT. One lemma per field per update of `State`, true by `rfl`, so that no later proof unfolds a record update. -/

namespace Sys2Proof.Machine

variable (s : State)


/-! `State.setReg` -/

@[simp] theorem State.setReg_platform (n : Reg) (v : Word) : (s.setReg n v).platform = s.platform := rfl
@[simp] theorem State.setReg_regs (n : Reg) (v : Word) : (s.setReg n v).regs = s.regs.set n v := rfl
@[simp] theorem State.setReg_txd (n : Reg) (v : Word) : (s.setReg n v).txd = s.txd := rfl
@[simp] theorem State.setReg_rxd (n : Reg) (v : Word) : (s.setReg n v).rxd = s.rxd := rfl
@[simp] theorem State.setReg_txb (n : Reg) (v : Word) : (s.setReg n v).txb = s.txb := rfl
@[simp] theorem State.setReg_rxb (n : Reg) (v : Word) : (s.setReg n v).rxb = s.rxb := rfl
@[simp] theorem State.setReg_mode (n : Reg) (v : Word) : (s.setReg n v).mode = s.mode := rfl
@[simp] theorem State.setReg_txAccum (n : Reg) (v : Word) : (s.setReg n v).txAccum = s.txAccum := rfl
@[simp] theorem State.setReg_txLog (n : Reg) (v : Word) : (s.setReg n v).txLog = s.txLog := rfl
@[simp] theorem State.setReg_faults (n : Reg) (v : Word) : (s.setReg n v).faults = s.faults := rfl
@[simp] theorem State.setReg_refused (n : Reg) (v : Word) : (s.setReg n v).refused = s.refused := rfl
@[simp] theorem State.setReg_pending (n : Reg) (v : Word) : (s.setReg n v).pending = s.pending := rfl
@[simp] theorem State.setReg_responses (n : Reg) (v : Word) : (s.setReg n v).responses = s.responses := rfl
@[simp] theorem State.setReg_txDesc (n : Reg) (v : Word) (j : Nat) : (s.setReg n v).txDesc j = s.txDesc j := rfl
@[simp] theorem State.setReg_txDone (n : Reg) (v : Word) (j : Nat) : (s.setReg n v).txDone j = s.txDone j := rfl
@[simp] theorem State.setReg_rxDesc (n : Reg) (v : Word) (j : Nat) : (s.setReg n v).rxDesc j = s.rxDesc j := rfl
@[simp] theorem State.setReg_rxDone (n : Reg) (v : Word) (j : Nat) : (s.setReg n v).rxDone j = s.rxDone j := rfl
@[simp] theorem State.setReg_txBuf (n : Reg) (v : Word) (j a b' : Nat) : (s.setReg n v).txBuf j a b' = s.txBuf j a b' := rfl
@[simp] theorem State.setReg_rxBuf (n : Reg) (v : Word) (j a b' : Nat) : (s.setReg n v).rxBuf j a b' = s.rxBuf j a b' := rfl

/-! `State.setTx` -/

@[simp] theorem State.setTx_platform {w : Nat} (i : Nat) (f : TxField) (v : BitVec w) : (s.setTx i f v).platform = s.platform := rfl
@[simp] theorem State.setTx_regs {w : Nat} (i : Nat) (f : TxField) (v : BitVec w) : (s.setTx i f v).regs = s.regs := rfl
@[simp] theorem State.setTx_txd {w : Nat} (i : Nat) (f : TxField) (v : BitVec w) : (s.setTx i f v).txd = s.txd.setField (txAt i f) v := rfl
@[simp] theorem State.setTx_rxd {w : Nat} (i : Nat) (f : TxField) (v : BitVec w) : (s.setTx i f v).rxd = s.rxd := rfl
@[simp] theorem State.setTx_txb {w : Nat} (i : Nat) (f : TxField) (v : BitVec w) : (s.setTx i f v).txb = s.txb := rfl
@[simp] theorem State.setTx_rxb {w : Nat} (i : Nat) (f : TxField) (v : BitVec w) : (s.setTx i f v).rxb = s.rxb := rfl
@[simp] theorem State.setTx_mode {w : Nat} (i : Nat) (f : TxField) (v : BitVec w) : (s.setTx i f v).mode = s.mode := rfl
@[simp] theorem State.setTx_txAccum {w : Nat} (i : Nat) (f : TxField) (v : BitVec w) : (s.setTx i f v).txAccum = s.txAccum := rfl
@[simp] theorem State.setTx_txLog {w : Nat} (i : Nat) (f : TxField) (v : BitVec w) : (s.setTx i f v).txLog = s.txLog := rfl
@[simp] theorem State.setTx_faults {w : Nat} (i : Nat) (f : TxField) (v : BitVec w) : (s.setTx i f v).faults = s.faults := rfl
@[simp] theorem State.setTx_refused {w : Nat} (i : Nat) (f : TxField) (v : BitVec w) : (s.setTx i f v).refused = s.refused := rfl
@[simp] theorem State.setTx_pending {w : Nat} (i : Nat) (f : TxField) (v : BitVec w) : (s.setTx i f v).pending = s.pending := rfl
@[simp] theorem State.setTx_responses {w : Nat} (i : Nat) (f : TxField) (v : BitVec w) : (s.setTx i f v).responses = s.responses := rfl
@[simp] theorem State.setTx_reg {w : Nat} (i : Nat) (f : TxField) (v : BitVec w) (q : Reg) : (s.setTx i f v).reg q = s.reg q := rfl
@[simp] theorem State.setTx_rxDesc {w : Nat} (i : Nat) (f : TxField) (v : BitVec w) (j : Nat) : (s.setTx i f v).rxDesc j = s.rxDesc j := rfl
@[simp] theorem State.setTx_rxDone {w : Nat} (i : Nat) (f : TxField) (v : BitVec w) (j : Nat) : (s.setTx i f v).rxDone j = s.rxDone j := rfl
@[simp] theorem State.setTx_txBuf {w : Nat} (i : Nat) (f : TxField) (v : BitVec w) (j a b' : Nat) : (s.setTx i f v).txBuf j a b' = s.txBuf j a b' := rfl
@[simp] theorem State.setTx_rxBuf {w : Nat} (i : Nat) (f : TxField) (v : BitVec w) (j a b' : Nat) : (s.setTx i f v).rxBuf j a b' = s.rxBuf j a b' := rfl

/-! `State.setRx` -/

@[simp] theorem State.setRx_platform {w : Nat} (i : Nat) (f : RxField) (v : BitVec w) : (s.setRx i f v).platform = s.platform := rfl
@[simp] theorem State.setRx_regs {w : Nat} (i : Nat) (f : RxField) (v : BitVec w) : (s.setRx i f v).regs = s.regs := rfl
@[simp] theorem State.setRx_txd {w : Nat} (i : Nat) (f : RxField) (v : BitVec w) : (s.setRx i f v).txd = s.txd := rfl
@[simp] theorem State.setRx_rxd {w : Nat} (i : Nat) (f : RxField) (v : BitVec w) : (s.setRx i f v).rxd = s.rxd.setField (rxAt i f) v := rfl
@[simp] theorem State.setRx_txb {w : Nat} (i : Nat) (f : RxField) (v : BitVec w) : (s.setRx i f v).txb = s.txb := rfl
@[simp] theorem State.setRx_rxb {w : Nat} (i : Nat) (f : RxField) (v : BitVec w) : (s.setRx i f v).rxb = s.rxb := rfl
@[simp] theorem State.setRx_mode {w : Nat} (i : Nat) (f : RxField) (v : BitVec w) : (s.setRx i f v).mode = s.mode := rfl
@[simp] theorem State.setRx_txAccum {w : Nat} (i : Nat) (f : RxField) (v : BitVec w) : (s.setRx i f v).txAccum = s.txAccum := rfl
@[simp] theorem State.setRx_txLog {w : Nat} (i : Nat) (f : RxField) (v : BitVec w) : (s.setRx i f v).txLog = s.txLog := rfl
@[simp] theorem State.setRx_faults {w : Nat} (i : Nat) (f : RxField) (v : BitVec w) : (s.setRx i f v).faults = s.faults := rfl
@[simp] theorem State.setRx_refused {w : Nat} (i : Nat) (f : RxField) (v : BitVec w) : (s.setRx i f v).refused = s.refused := rfl
@[simp] theorem State.setRx_pending {w : Nat} (i : Nat) (f : RxField) (v : BitVec w) : (s.setRx i f v).pending = s.pending := rfl
@[simp] theorem State.setRx_responses {w : Nat} (i : Nat) (f : RxField) (v : BitVec w) : (s.setRx i f v).responses = s.responses := rfl
@[simp] theorem State.setRx_reg {w : Nat} (i : Nat) (f : RxField) (v : BitVec w) (q : Reg) : (s.setRx i f v).reg q = s.reg q := rfl
@[simp] theorem State.setRx_txDesc {w : Nat} (i : Nat) (f : RxField) (v : BitVec w) (j : Nat) : (s.setRx i f v).txDesc j = s.txDesc j := rfl
@[simp] theorem State.setRx_txDone {w : Nat} (i : Nat) (f : RxField) (v : BitVec w) (j : Nat) : (s.setRx i f v).txDone j = s.txDone j := rfl
@[simp] theorem State.setRx_txBuf {w : Nat} (i : Nat) (f : RxField) (v : BitVec w) (j a b' : Nat) : (s.setRx i f v).txBuf j a b' = s.txBuf j a b' := rfl
@[simp] theorem State.setRx_rxBuf {w : Nat} (i : Nat) (f : RxField) (v : BitVec w) (j a b' : Nat) : (s.setRx i f v).rxBuf j a b' = s.rxBuf j a b' := rfl

/-! `State.writeTxBuf` -/

@[simp] theorem State.writeTxBuf_platform (i : Nat) (v : Bytes) : (s.writeTxBuf i v).platform = s.platform := rfl
@[simp] theorem State.writeTxBuf_regs (i : Nat) (v : Bytes) : (s.writeTxBuf i v).regs = s.regs := rfl
@[simp] theorem State.writeTxBuf_txd (i : Nat) (v : Bytes) : (s.writeTxBuf i v).txd = s.txd := rfl
@[simp] theorem State.writeTxBuf_rxd (i : Nat) (v : Bytes) : (s.writeTxBuf i v).rxd = s.rxd := rfl
@[simp] theorem State.writeTxBuf_txb (i : Nat) (v : Bytes) : (s.writeTxBuf i v).txb = s.txb.writeBytes (txBufAt i) v := rfl
@[simp] theorem State.writeTxBuf_rxb (i : Nat) (v : Bytes) : (s.writeTxBuf i v).rxb = s.rxb := rfl
@[simp] theorem State.writeTxBuf_mode (i : Nat) (v : Bytes) : (s.writeTxBuf i v).mode = s.mode := rfl
@[simp] theorem State.writeTxBuf_txAccum (i : Nat) (v : Bytes) : (s.writeTxBuf i v).txAccum = s.txAccum := rfl
@[simp] theorem State.writeTxBuf_txLog (i : Nat) (v : Bytes) : (s.writeTxBuf i v).txLog = s.txLog := rfl
@[simp] theorem State.writeTxBuf_faults (i : Nat) (v : Bytes) : (s.writeTxBuf i v).faults = s.faults := rfl
@[simp] theorem State.writeTxBuf_refused (i : Nat) (v : Bytes) : (s.writeTxBuf i v).refused = s.refused := rfl
@[simp] theorem State.writeTxBuf_pending (i : Nat) (v : Bytes) : (s.writeTxBuf i v).pending = s.pending := rfl
@[simp] theorem State.writeTxBuf_responses (i : Nat) (v : Bytes) : (s.writeTxBuf i v).responses = s.responses := rfl
@[simp] theorem State.writeTxBuf_reg (i : Nat) (v : Bytes) (q : Reg) : (s.writeTxBuf i v).reg q = s.reg q := rfl
@[simp] theorem State.writeTxBuf_txDesc (i : Nat) (v : Bytes) (j : Nat) : (s.writeTxBuf i v).txDesc j = s.txDesc j := rfl
@[simp] theorem State.writeTxBuf_txDone (i : Nat) (v : Bytes) (j : Nat) : (s.writeTxBuf i v).txDone j = s.txDone j := rfl
@[simp] theorem State.writeTxBuf_rxDesc (i : Nat) (v : Bytes) (j : Nat) : (s.writeTxBuf i v).rxDesc j = s.rxDesc j := rfl
@[simp] theorem State.writeTxBuf_rxDone (i : Nat) (v : Bytes) (j : Nat) : (s.writeTxBuf i v).rxDone j = s.rxDone j := rfl
@[simp] theorem State.writeTxBuf_rxBuf (i : Nat) (v : Bytes) (j a b' : Nat) : (s.writeTxBuf i v).rxBuf j a b' = s.rxBuf j a b' := rfl

/-! `State.writeRxBuf` -/

@[simp] theorem State.writeRxBuf_platform (i : Nat) (v : Bytes) : (s.writeRxBuf i v).platform = s.platform := rfl
@[simp] theorem State.writeRxBuf_regs (i : Nat) (v : Bytes) : (s.writeRxBuf i v).regs = s.regs := rfl
@[simp] theorem State.writeRxBuf_txd (i : Nat) (v : Bytes) : (s.writeRxBuf i v).txd = s.txd := rfl
@[simp] theorem State.writeRxBuf_rxd (i : Nat) (v : Bytes) : (s.writeRxBuf i v).rxd = s.rxd := rfl
@[simp] theorem State.writeRxBuf_txb (i : Nat) (v : Bytes) : (s.writeRxBuf i v).txb = s.txb := rfl
@[simp] theorem State.writeRxBuf_rxb (i : Nat) (v : Bytes) : (s.writeRxBuf i v).rxb = s.rxb.writeBytes (rxBufAt i) v := rfl
@[simp] theorem State.writeRxBuf_mode (i : Nat) (v : Bytes) : (s.writeRxBuf i v).mode = s.mode := rfl
@[simp] theorem State.writeRxBuf_txAccum (i : Nat) (v : Bytes) : (s.writeRxBuf i v).txAccum = s.txAccum := rfl
@[simp] theorem State.writeRxBuf_txLog (i : Nat) (v : Bytes) : (s.writeRxBuf i v).txLog = s.txLog := rfl
@[simp] theorem State.writeRxBuf_faults (i : Nat) (v : Bytes) : (s.writeRxBuf i v).faults = s.faults := rfl
@[simp] theorem State.writeRxBuf_refused (i : Nat) (v : Bytes) : (s.writeRxBuf i v).refused = s.refused := rfl
@[simp] theorem State.writeRxBuf_pending (i : Nat) (v : Bytes) : (s.writeRxBuf i v).pending = s.pending := rfl
@[simp] theorem State.writeRxBuf_responses (i : Nat) (v : Bytes) : (s.writeRxBuf i v).responses = s.responses := rfl
@[simp] theorem State.writeRxBuf_reg (i : Nat) (v : Bytes) (q : Reg) : (s.writeRxBuf i v).reg q = s.reg q := rfl
@[simp] theorem State.writeRxBuf_txDesc (i : Nat) (v : Bytes) (j : Nat) : (s.writeRxBuf i v).txDesc j = s.txDesc j := rfl
@[simp] theorem State.writeRxBuf_txDone (i : Nat) (v : Bytes) (j : Nat) : (s.writeRxBuf i v).txDone j = s.txDone j := rfl
@[simp] theorem State.writeRxBuf_rxDesc (i : Nat) (v : Bytes) (j : Nat) : (s.writeRxBuf i v).rxDesc j = s.rxDesc j := rfl
@[simp] theorem State.writeRxBuf_rxDone (i : Nat) (v : Bytes) (j : Nat) : (s.writeRxBuf i v).rxDone j = s.rxDone j := rfl
@[simp] theorem State.writeRxBuf_txBuf (i : Nat) (v : Bytes) (j a b' : Nat) : (s.writeRxBuf i v).txBuf j a b' = s.txBuf j a b' := rfl

/-! `State.setTxd` -/

@[simp] theorem State.setTxd_platform (m : Memory) : (s.setTxd m).platform = s.platform := rfl
@[simp] theorem State.setTxd_regs (m : Memory) : (s.setTxd m).regs = s.regs := rfl
@[simp] theorem State.setTxd_txd (m : Memory) : (s.setTxd m).txd = m := rfl
@[simp] theorem State.setTxd_rxd (m : Memory) : (s.setTxd m).rxd = s.rxd := rfl
@[simp] theorem State.setTxd_txb (m : Memory) : (s.setTxd m).txb = s.txb := rfl
@[simp] theorem State.setTxd_rxb (m : Memory) : (s.setTxd m).rxb = s.rxb := rfl
@[simp] theorem State.setTxd_mode (m : Memory) : (s.setTxd m).mode = s.mode := rfl
@[simp] theorem State.setTxd_txAccum (m : Memory) : (s.setTxd m).txAccum = s.txAccum := rfl
@[simp] theorem State.setTxd_txLog (m : Memory) : (s.setTxd m).txLog = s.txLog := rfl
@[simp] theorem State.setTxd_faults (m : Memory) : (s.setTxd m).faults = s.faults := rfl
@[simp] theorem State.setTxd_refused (m : Memory) : (s.setTxd m).refused = s.refused := rfl
@[simp] theorem State.setTxd_pending (m : Memory) : (s.setTxd m).pending = s.pending := rfl
@[simp] theorem State.setTxd_responses (m : Memory) : (s.setTxd m).responses = s.responses := rfl
@[simp] theorem State.setTxd_reg (m : Memory) (q : Reg) : (s.setTxd m).reg q = s.reg q := rfl
@[simp] theorem State.setTxd_rxDesc (m : Memory) (j : Nat) : (s.setTxd m).rxDesc j = s.rxDesc j := rfl
@[simp] theorem State.setTxd_rxDone (m : Memory) (j : Nat) : (s.setTxd m).rxDone j = s.rxDone j := rfl
@[simp] theorem State.setTxd_txBuf (m : Memory) (j a b' : Nat) : (s.setTxd m).txBuf j a b' = s.txBuf j a b' := rfl
@[simp] theorem State.setTxd_rxBuf (m : Memory) (j a b' : Nat) : (s.setTxd m).rxBuf j a b' = s.rxBuf j a b' := rfl

/-! `State.setRxd` -/

@[simp] theorem State.setRxd_platform (m : Memory) : (s.setRxd m).platform = s.platform := rfl
@[simp] theorem State.setRxd_regs (m : Memory) : (s.setRxd m).regs = s.regs := rfl
@[simp] theorem State.setRxd_txd (m : Memory) : (s.setRxd m).txd = s.txd := rfl
@[simp] theorem State.setRxd_rxd (m : Memory) : (s.setRxd m).rxd = m := rfl
@[simp] theorem State.setRxd_txb (m : Memory) : (s.setRxd m).txb = s.txb := rfl
@[simp] theorem State.setRxd_rxb (m : Memory) : (s.setRxd m).rxb = s.rxb := rfl
@[simp] theorem State.setRxd_mode (m : Memory) : (s.setRxd m).mode = s.mode := rfl
@[simp] theorem State.setRxd_txAccum (m : Memory) : (s.setRxd m).txAccum = s.txAccum := rfl
@[simp] theorem State.setRxd_txLog (m : Memory) : (s.setRxd m).txLog = s.txLog := rfl
@[simp] theorem State.setRxd_faults (m : Memory) : (s.setRxd m).faults = s.faults := rfl
@[simp] theorem State.setRxd_refused (m : Memory) : (s.setRxd m).refused = s.refused := rfl
@[simp] theorem State.setRxd_pending (m : Memory) : (s.setRxd m).pending = s.pending := rfl
@[simp] theorem State.setRxd_responses (m : Memory) : (s.setRxd m).responses = s.responses := rfl
@[simp] theorem State.setRxd_reg (m : Memory) (q : Reg) : (s.setRxd m).reg q = s.reg q := rfl
@[simp] theorem State.setRxd_txDesc (m : Memory) (j : Nat) : (s.setRxd m).txDesc j = s.txDesc j := rfl
@[simp] theorem State.setRxd_txDone (m : Memory) (j : Nat) : (s.setRxd m).txDone j = s.txDone j := rfl
@[simp] theorem State.setRxd_txBuf (m : Memory) (j a b' : Nat) : (s.setRxd m).txBuf j a b' = s.txBuf j a b' := rfl
@[simp] theorem State.setRxd_rxBuf (m : Memory) (j a b' : Nat) : (s.setRxd m).rxBuf j a b' = s.rxBuf j a b' := rfl

/-! `State.setTxb` -/

@[simp] theorem State.setTxb_platform (m : Memory) : (s.setTxb m).platform = s.platform := rfl
@[simp] theorem State.setTxb_regs (m : Memory) : (s.setTxb m).regs = s.regs := rfl
@[simp] theorem State.setTxb_txd (m : Memory) : (s.setTxb m).txd = s.txd := rfl
@[simp] theorem State.setTxb_rxd (m : Memory) : (s.setTxb m).rxd = s.rxd := rfl
@[simp] theorem State.setTxb_txb (m : Memory) : (s.setTxb m).txb = m := rfl
@[simp] theorem State.setTxb_rxb (m : Memory) : (s.setTxb m).rxb = s.rxb := rfl
@[simp] theorem State.setTxb_mode (m : Memory) : (s.setTxb m).mode = s.mode := rfl
@[simp] theorem State.setTxb_txAccum (m : Memory) : (s.setTxb m).txAccum = s.txAccum := rfl
@[simp] theorem State.setTxb_txLog (m : Memory) : (s.setTxb m).txLog = s.txLog := rfl
@[simp] theorem State.setTxb_faults (m : Memory) : (s.setTxb m).faults = s.faults := rfl
@[simp] theorem State.setTxb_refused (m : Memory) : (s.setTxb m).refused = s.refused := rfl
@[simp] theorem State.setTxb_pending (m : Memory) : (s.setTxb m).pending = s.pending := rfl
@[simp] theorem State.setTxb_responses (m : Memory) : (s.setTxb m).responses = s.responses := rfl
@[simp] theorem State.setTxb_reg (m : Memory) (q : Reg) : (s.setTxb m).reg q = s.reg q := rfl
@[simp] theorem State.setTxb_txDesc (m : Memory) (j : Nat) : (s.setTxb m).txDesc j = s.txDesc j := rfl
@[simp] theorem State.setTxb_txDone (m : Memory) (j : Nat) : (s.setTxb m).txDone j = s.txDone j := rfl
@[simp] theorem State.setTxb_rxDesc (m : Memory) (j : Nat) : (s.setTxb m).rxDesc j = s.rxDesc j := rfl
@[simp] theorem State.setTxb_rxDone (m : Memory) (j : Nat) : (s.setTxb m).rxDone j = s.rxDone j := rfl
@[simp] theorem State.setTxb_rxBuf (m : Memory) (j a b' : Nat) : (s.setTxb m).rxBuf j a b' = s.rxBuf j a b' := rfl

/-! `State.setRxb` -/

@[simp] theorem State.setRxb_platform (m : Memory) : (s.setRxb m).platform = s.platform := rfl
@[simp] theorem State.setRxb_regs (m : Memory) : (s.setRxb m).regs = s.regs := rfl
@[simp] theorem State.setRxb_txd (m : Memory) : (s.setRxb m).txd = s.txd := rfl
@[simp] theorem State.setRxb_rxd (m : Memory) : (s.setRxb m).rxd = s.rxd := rfl
@[simp] theorem State.setRxb_txb (m : Memory) : (s.setRxb m).txb = s.txb := rfl
@[simp] theorem State.setRxb_rxb (m : Memory) : (s.setRxb m).rxb = m := rfl
@[simp] theorem State.setRxb_mode (m : Memory) : (s.setRxb m).mode = s.mode := rfl
@[simp] theorem State.setRxb_txAccum (m : Memory) : (s.setRxb m).txAccum = s.txAccum := rfl
@[simp] theorem State.setRxb_txLog (m : Memory) : (s.setRxb m).txLog = s.txLog := rfl
@[simp] theorem State.setRxb_faults (m : Memory) : (s.setRxb m).faults = s.faults := rfl
@[simp] theorem State.setRxb_refused (m : Memory) : (s.setRxb m).refused = s.refused := rfl
@[simp] theorem State.setRxb_pending (m : Memory) : (s.setRxb m).pending = s.pending := rfl
@[simp] theorem State.setRxb_responses (m : Memory) : (s.setRxb m).responses = s.responses := rfl
@[simp] theorem State.setRxb_reg (m : Memory) (q : Reg) : (s.setRxb m).reg q = s.reg q := rfl
@[simp] theorem State.setRxb_txDesc (m : Memory) (j : Nat) : (s.setRxb m).txDesc j = s.txDesc j := rfl
@[simp] theorem State.setRxb_txDone (m : Memory) (j : Nat) : (s.setRxb m).txDone j = s.txDone j := rfl
@[simp] theorem State.setRxb_rxDesc (m : Memory) (j : Nat) : (s.setRxb m).rxDesc j = s.rxDesc j := rfl
@[simp] theorem State.setRxb_rxDone (m : Memory) (j : Nat) : (s.setRxb m).rxDone j = s.rxDone j := rfl
@[simp] theorem State.setRxb_txBuf (m : Memory) (j a b' : Nat) : (s.setRxb m).txBuf j a b' = s.txBuf j a b' := rfl

/-! `State.respond` -/

@[simp] theorem State.respond_platform (r : Response) : (s.respond r).platform = s.platform := rfl
@[simp] theorem State.respond_regs (r : Response) : (s.respond r).regs = s.regs := rfl
@[simp] theorem State.respond_txd (r : Response) : (s.respond r).txd = s.txd := rfl
@[simp] theorem State.respond_rxd (r : Response) : (s.respond r).rxd = s.rxd := rfl
@[simp] theorem State.respond_txb (r : Response) : (s.respond r).txb = s.txb := rfl
@[simp] theorem State.respond_rxb (r : Response) : (s.respond r).rxb = s.rxb := rfl
@[simp] theorem State.respond_mode (r : Response) : (s.respond r).mode = s.mode := rfl
@[simp] theorem State.respond_txAccum (r : Response) : (s.respond r).txAccum = s.txAccum := rfl
@[simp] theorem State.respond_txLog (r : Response) : (s.respond r).txLog = s.txLog := rfl
@[simp] theorem State.respond_faults (r : Response) : (s.respond r).faults = s.faults := rfl
@[simp] theorem State.respond_refused (r : Response) : (s.respond r).refused = s.refused := rfl
@[simp] theorem State.respond_pending (r : Response) : (s.respond r).pending = s.pending := rfl
@[simp] theorem State.respond_responses (r : Response) : (s.respond r).responses = s.responses ++ [r] := rfl
@[simp] theorem State.respond_reg (r : Response) (q : Reg) : (s.respond r).reg q = s.reg q := rfl
@[simp] theorem State.respond_txDesc (r : Response) (j : Nat) : (s.respond r).txDesc j = s.txDesc j := rfl
@[simp] theorem State.respond_txDone (r : Response) (j : Nat) : (s.respond r).txDone j = s.txDone j := rfl
@[simp] theorem State.respond_rxDesc (r : Response) (j : Nat) : (s.respond r).rxDesc j = s.rxDesc j := rfl
@[simp] theorem State.respond_rxDone (r : Response) (j : Nat) : (s.respond r).rxDone j = s.rxDone j := rfl
@[simp] theorem State.respond_txBuf (r : Response) (j a b' : Nat) : (s.respond r).txBuf j a b' = s.txBuf j a b' := rfl
@[simp] theorem State.respond_rxBuf (r : Response) (j a b' : Nat) : (s.respond r).rxBuf j a b' = s.rxBuf j a b' := rfl

/-! `State.raise` -/

@[simp] theorem State.raise_platform (k : Fault) : (s.raise k).platform = s.platform := rfl
@[simp] theorem State.raise_regs (k : Fault) : (s.raise k).regs = s.regs := rfl
@[simp] theorem State.raise_txd (k : Fault) : (s.raise k).txd = s.txd := rfl
@[simp] theorem State.raise_rxd (k : Fault) : (s.raise k).rxd = s.rxd := rfl
@[simp] theorem State.raise_txb (k : Fault) : (s.raise k).txb = s.txb := rfl
@[simp] theorem State.raise_rxb (k : Fault) : (s.raise k).rxb = s.rxb := rfl
@[simp] theorem State.raise_mode (k : Fault) : (s.raise k).mode = s.mode := rfl
@[simp] theorem State.raise_txAccum (k : Fault) : (s.raise k).txAccum = s.txAccum := rfl
@[simp] theorem State.raise_txLog (k : Fault) : (s.raise k).txLog = s.txLog := rfl
@[simp] theorem State.raise_faults (k : Fault) : (s.raise k).faults = s.faults.add k := rfl
@[simp] theorem State.raise_refused (k : Fault) : (s.raise k).refused = s.refused := rfl
@[simp] theorem State.raise_pending (k : Fault) : (s.raise k).pending = s.pending := rfl
@[simp] theorem State.raise_responses (k : Fault) : (s.raise k).responses = s.responses := rfl
@[simp] theorem State.raise_reg (k : Fault) (q : Reg) : (s.raise k).reg q = s.reg q := rfl
@[simp] theorem State.raise_txDesc (k : Fault) (j : Nat) : (s.raise k).txDesc j = s.txDesc j := rfl
@[simp] theorem State.raise_txDone (k : Fault) (j : Nat) : (s.raise k).txDone j = s.txDone j := rfl
@[simp] theorem State.raise_rxDesc (k : Fault) (j : Nat) : (s.raise k).rxDesc j = s.rxDesc j := rfl
@[simp] theorem State.raise_rxDone (k : Fault) (j : Nat) : (s.raise k).rxDone j = s.rxDone j := rfl
@[simp] theorem State.raise_txBuf (k : Fault) (j a b' : Nat) : (s.raise k).txBuf j a b' = s.txBuf j a b' := rfl
@[simp] theorem State.raise_rxBuf (k : Fault) (j a b' : Nat) : (s.raise k).rxBuf j a b' = s.rxBuf j a b' := rfl

/-! `State.refuse` -/

@[simp] theorem State.refuse_platform (r : RefuseReason) : (s.refuse r).platform = s.platform := rfl
@[simp] theorem State.refuse_regs (r : RefuseReason) : (s.refuse r).regs = s.regs := rfl
@[simp] theorem State.refuse_txd (r : RefuseReason) : (s.refuse r).txd = s.txd := rfl
@[simp] theorem State.refuse_rxd (r : RefuseReason) : (s.refuse r).rxd = s.rxd := rfl
@[simp] theorem State.refuse_txb (r : RefuseReason) : (s.refuse r).txb = s.txb := rfl
@[simp] theorem State.refuse_rxb (r : RefuseReason) : (s.refuse r).rxb = s.rxb := rfl
@[simp] theorem State.refuse_mode (r : RefuseReason) : (s.refuse r).mode = s.mode := rfl
@[simp] theorem State.refuse_txAccum (r : RefuseReason) : (s.refuse r).txAccum = s.txAccum := rfl
@[simp] theorem State.refuse_txLog (r : RefuseReason) : (s.refuse r).txLog = s.txLog := rfl
@[simp] theorem State.refuse_faults (r : RefuseReason) : (s.refuse r).faults = s.faults := rfl
@[simp] theorem State.refuse_refused (r : RefuseReason) : (s.refuse r).refused = some r := rfl
@[simp] theorem State.refuse_pending (r : RefuseReason) : (s.refuse r).pending = s.pending := rfl
@[simp] theorem State.refuse_responses (r : RefuseReason) : (s.refuse r).responses = s.responses := rfl
@[simp] theorem State.refuse_reg (r : RefuseReason) (q : Reg) : (s.refuse r).reg q = s.reg q := rfl
@[simp] theorem State.refuse_txDesc (r : RefuseReason) (j : Nat) : (s.refuse r).txDesc j = s.txDesc j := rfl
@[simp] theorem State.refuse_txDone (r : RefuseReason) (j : Nat) : (s.refuse r).txDone j = s.txDone j := rfl
@[simp] theorem State.refuse_rxDesc (r : RefuseReason) (j : Nat) : (s.refuse r).rxDesc j = s.rxDesc j := rfl
@[simp] theorem State.refuse_rxDone (r : RefuseReason) (j : Nat) : (s.refuse r).rxDone j = s.rxDone j := rfl
@[simp] theorem State.refuse_txBuf (r : RefuseReason) (j a b' : Nat) : (s.refuse r).txBuf j a b' = s.txBuf j a b' := rfl
@[simp] theorem State.refuse_rxBuf (r : RefuseReason) (j a b' : Nat) : (s.refuse r).rxBuf j a b' = s.rxBuf j a b' := rfl

/-! `State.emit` -/

@[simp] theorem State.emit_platform (b : Bytes) : (s.emit b).platform = s.platform := rfl
@[simp] theorem State.emit_regs (b : Bytes) : (s.emit b).regs = s.regs := rfl
@[simp] theorem State.emit_txd (b : Bytes) : (s.emit b).txd = s.txd := rfl
@[simp] theorem State.emit_rxd (b : Bytes) : (s.emit b).rxd = s.rxd := rfl
@[simp] theorem State.emit_txb (b : Bytes) : (s.emit b).txb = s.txb := rfl
@[simp] theorem State.emit_rxb (b : Bytes) : (s.emit b).rxb = s.rxb := rfl
@[simp] theorem State.emit_mode (b : Bytes) : (s.emit b).mode = s.mode := rfl
@[simp] theorem State.emit_txAccum (b : Bytes) : (s.emit b).txAccum = s.txAccum := rfl
@[simp] theorem State.emit_txLog (b : Bytes) : (s.emit b).txLog = s.txLog ++ [b] := rfl
@[simp] theorem State.emit_faults (b : Bytes) : (s.emit b).faults = s.faults := rfl
@[simp] theorem State.emit_refused (b : Bytes) : (s.emit b).refused = s.refused := rfl
@[simp] theorem State.emit_pending (b : Bytes) : (s.emit b).pending = s.pending := rfl
@[simp] theorem State.emit_responses (b : Bytes) : (s.emit b).responses = s.responses := rfl
@[simp] theorem State.emit_reg (b : Bytes) (q : Reg) : (s.emit b).reg q = s.reg q := rfl
@[simp] theorem State.emit_txDesc (b : Bytes) (j : Nat) : (s.emit b).txDesc j = s.txDesc j := rfl
@[simp] theorem State.emit_txDone (b : Bytes) (j : Nat) : (s.emit b).txDone j = s.txDone j := rfl
@[simp] theorem State.emit_rxDesc (b : Bytes) (j : Nat) : (s.emit b).rxDesc j = s.rxDesc j := rfl
@[simp] theorem State.emit_rxDone (b : Bytes) (j : Nat) : (s.emit b).rxDone j = s.rxDone j := rfl
@[simp] theorem State.emit_txBuf (b : Bytes) (j a b' : Nat) : (s.emit b).txBuf j a b' = s.txBuf j a b' := rfl
@[simp] theorem State.emit_rxBuf (b : Bytes) (j a b' : Nat) : (s.emit b).rxBuf j a b' = s.rxBuf j a b' := rfl

/-! `State.setAccum` -/

@[simp] theorem State.setAccum_platform (b : Bytes) : (s.setAccum b).platform = s.platform := rfl
@[simp] theorem State.setAccum_regs (b : Bytes) : (s.setAccum b).regs = s.regs := rfl
@[simp] theorem State.setAccum_txd (b : Bytes) : (s.setAccum b).txd = s.txd := rfl
@[simp] theorem State.setAccum_rxd (b : Bytes) : (s.setAccum b).rxd = s.rxd := rfl
@[simp] theorem State.setAccum_txb (b : Bytes) : (s.setAccum b).txb = s.txb := rfl
@[simp] theorem State.setAccum_rxb (b : Bytes) : (s.setAccum b).rxb = s.rxb := rfl
@[simp] theorem State.setAccum_mode (b : Bytes) : (s.setAccum b).mode = s.mode := rfl
@[simp] theorem State.setAccum_txAccum (b : Bytes) : (s.setAccum b).txAccum = b := rfl
@[simp] theorem State.setAccum_txLog (b : Bytes) : (s.setAccum b).txLog = s.txLog := rfl
@[simp] theorem State.setAccum_faults (b : Bytes) : (s.setAccum b).faults = s.faults := rfl
@[simp] theorem State.setAccum_refused (b : Bytes) : (s.setAccum b).refused = s.refused := rfl
@[simp] theorem State.setAccum_pending (b : Bytes) : (s.setAccum b).pending = s.pending := rfl
@[simp] theorem State.setAccum_responses (b : Bytes) : (s.setAccum b).responses = s.responses := rfl
@[simp] theorem State.setAccum_reg (b : Bytes) (q : Reg) : (s.setAccum b).reg q = s.reg q := rfl
@[simp] theorem State.setAccum_txDesc (b : Bytes) (j : Nat) : (s.setAccum b).txDesc j = s.txDesc j := rfl
@[simp] theorem State.setAccum_txDone (b : Bytes) (j : Nat) : (s.setAccum b).txDone j = s.txDone j := rfl
@[simp] theorem State.setAccum_rxDesc (b : Bytes) (j : Nat) : (s.setAccum b).rxDesc j = s.rxDesc j := rfl
@[simp] theorem State.setAccum_rxDone (b : Bytes) (j : Nat) : (s.setAccum b).rxDone j = s.rxDone j := rfl
@[simp] theorem State.setAccum_txBuf (b : Bytes) (j a b' : Nat) : (s.setAccum b).txBuf j a b' = s.txBuf j a b' := rfl
@[simp] theorem State.setAccum_rxBuf (b : Bytes) (j a b' : Nat) : (s.setAccum b).rxBuf j a b' = s.rxBuf j a b' := rfl

/-! `State.setMode` -/

@[simp] theorem State.setMode_platform (m : Mode) : (s.setMode m).platform = s.platform := rfl
@[simp] theorem State.setMode_regs (m : Mode) : (s.setMode m).regs = s.regs := rfl
@[simp] theorem State.setMode_txd (m : Mode) : (s.setMode m).txd = s.txd := rfl
@[simp] theorem State.setMode_rxd (m : Mode) : (s.setMode m).rxd = s.rxd := rfl
@[simp] theorem State.setMode_txb (m : Mode) : (s.setMode m).txb = s.txb := rfl
@[simp] theorem State.setMode_rxb (m : Mode) : (s.setMode m).rxb = s.rxb := rfl
@[simp] theorem State.setMode_mode (m : Mode) : (s.setMode m).mode = m := rfl
@[simp] theorem State.setMode_txAccum (m : Mode) : (s.setMode m).txAccum = s.txAccum := rfl
@[simp] theorem State.setMode_txLog (m : Mode) : (s.setMode m).txLog = s.txLog := rfl
@[simp] theorem State.setMode_faults (m : Mode) : (s.setMode m).faults = s.faults := rfl
@[simp] theorem State.setMode_refused (m : Mode) : (s.setMode m).refused = s.refused := rfl
@[simp] theorem State.setMode_pending (m : Mode) : (s.setMode m).pending = s.pending := rfl
@[simp] theorem State.setMode_responses (m : Mode) : (s.setMode m).responses = s.responses := rfl
@[simp] theorem State.setMode_reg (m : Mode) (q : Reg) : (s.setMode m).reg q = s.reg q := rfl
@[simp] theorem State.setMode_txDesc (m : Mode) (j : Nat) : (s.setMode m).txDesc j = s.txDesc j := rfl
@[simp] theorem State.setMode_txDone (m : Mode) (j : Nat) : (s.setMode m).txDone j = s.txDone j := rfl
@[simp] theorem State.setMode_rxDesc (m : Mode) (j : Nat) : (s.setMode m).rxDesc j = s.rxDesc j := rfl
@[simp] theorem State.setMode_rxDone (m : Mode) (j : Nat) : (s.setMode m).rxDone j = s.rxDone j := rfl
@[simp] theorem State.setMode_txBuf (m : Mode) (j a b' : Nat) : (s.setMode m).txBuf j a b' = s.txBuf j a b' := rfl
@[simp] theorem State.setMode_rxBuf (m : Mode) (j a b' : Nat) : (s.setMode m).rxBuf j a b' = s.rxBuf j a b' := rfl

/-! `State.dropLabel` -/

@[simp] theorem State.dropLabel_platform : (s.dropLabel).platform = s.platform := rfl
@[simp] theorem State.dropLabel_regs : (s.dropLabel).regs = s.regs := rfl
@[simp] theorem State.dropLabel_txd : (s.dropLabel).txd = s.txd := rfl
@[simp] theorem State.dropLabel_rxd : (s.dropLabel).rxd = s.rxd := rfl
@[simp] theorem State.dropLabel_txb : (s.dropLabel).txb = s.txb := rfl
@[simp] theorem State.dropLabel_rxb : (s.dropLabel).rxb = s.rxb := rfl
@[simp] theorem State.dropLabel_mode : (s.dropLabel).mode = s.mode := rfl
@[simp] theorem State.dropLabel_txAccum : (s.dropLabel).txAccum = s.txAccum := rfl
@[simp] theorem State.dropLabel_txLog : (s.dropLabel).txLog = s.txLog := rfl
@[simp] theorem State.dropLabel_faults : (s.dropLabel).faults = s.faults := rfl
@[simp] theorem State.dropLabel_refused : (s.dropLabel).refused = s.refused := rfl
@[simp] theorem State.dropLabel_pending : (s.dropLabel).pending = s.pending.tail := rfl
@[simp] theorem State.dropLabel_responses : (s.dropLabel).responses = s.responses := rfl
@[simp] theorem State.dropLabel_reg (q : Reg) : (s.dropLabel).reg q = s.reg q := rfl
@[simp] theorem State.dropLabel_txDesc (j : Nat) : (s.dropLabel).txDesc j = s.txDesc j := rfl
@[simp] theorem State.dropLabel_txDone (j : Nat) : (s.dropLabel).txDone j = s.txDone j := rfl
@[simp] theorem State.dropLabel_rxDesc (j : Nat) : (s.dropLabel).rxDesc j = s.rxDesc j := rfl
@[simp] theorem State.dropLabel_rxDone (j : Nat) : (s.dropLabel).rxDone j = s.rxDone j := rfl
@[simp] theorem State.dropLabel_txBuf (j a b' : Nat) : (s.dropLabel).txBuf j a b' = s.txBuf j a b' := rfl
@[simp] theorem State.dropLabel_rxBuf (j a b' : Nat) : (s.dropLabel).rxBuf j a b' = s.rxBuf j a b' := rfl

/-! The register file. -/

/-- A register reads back what was written last (R47), but for STATUS, which is read-only (R32). -/
theorem Regs.get_set (r : Regs) (n q : Reg) (v : Word) :
    (r.set n v).get q = if q = n ∧ n ≠ .status then v else r.get q := by
  cases n <;> cases q <;> rfl

theorem State.reg_setReg (n q : Reg) (v : Word) :
    (s.setReg n v).reg q = if q = n ∧ n ≠ .status then v else s.reg q := Regs.get_set s.regs n q v

@[simp] theorem State.reg_setReg_same (n : Reg) (v : Word) (h : n ≠ .status) : (s.setReg n v).reg n = v := by
  simp [State.reg_setReg, h]

@[simp] theorem State.reg_setReg_other (n q : Reg) (v : Word) (h : q ≠ n) : (s.setReg n v).reg q = s.reg q := by
  simp [State.reg_setReg, h]

/-! Responses and marks that are made of others. -/

@[simp] theorem State.result_eq (c : ResultCode) : s.result c = s.respond ⟨responseWord c 0, []⟩ := rfl

@[simp] theorem State.fault_eq (k : Fault) : s.fault k = (s.raise k).respond ⟨responseWord .faulted 0, []⟩ := rfl

@[simp] theorem State.resultData_eq (n : Half) (d : Bytes) : s.resultData n d = s.respond ⟨responseWord .ok n, d⟩ := rfl

/-- Adding a kind adds that kind and nothing else. -/
theorem FaultSet.has_add (f : FaultSet) (k j : Fault) : (f.add k).has j = (decide (j = k) || f.has j) := by
  cases k <;> cases j <;> rfl

end Sys2Proof.Machine
end

