-- ==== Sys2Proof/Laws/Descriptors.lean ====
section
/-! SUPPORT. Descriptor fields and buffers: what one field write does to every descriptor of the ring, and what ATTACH's
rings hold. -/

namespace Sys2Proof.Machine

/-! ## Field writes -/

theorem txDescOf_setField_addr (m : Memory) (i j : Nat) (v : BusAddr) :
    txDescOf (m.setField (txAt i .addr) v) j = if j = i then { txDescOf m j with addr := v } else txDescOf m j := by
  by_cases h : j = i
  · subst h
    simp only [txDescOf, if_true, Memory.field_setField_same _ _ _ (show 64 % 8 = 0 from rfl), TxDesc.mk.injEq, true_and]
    refine ⟨?_, ?_, ?_, ?_, ?_, ?_⟩ <;> apply Memory.field_setField_other <;> simp [txAt, TxField.offset]
  · simp only [txDescOf, if_neg h, TxDesc.mk.injEq]
    refine ⟨?_, ?_, ?_, ?_, ?_, ?_, ?_⟩ <;> apply Memory.field_setField_other <;>
      simp only [txAt, descAt, TxField.offset, Config.descSize] <;> omega

theorem txDescOf_setField_length (m : Memory) (i j : Nat) (v : Half) :
    txDescOf (m.setField (txAt i .length) v) j = if j = i then { txDescOf m j with length := v } else txDescOf m j := by
  by_cases h : j = i
  · subst h
    simp only [txDescOf, if_true, Memory.field_setField_same _ _ _ (show 16 % 8 = 0 from rfl), TxDesc.mk.injEq, true_and]
    refine ⟨?_, ?_, ?_, ?_, ?_, ?_⟩ <;> apply Memory.field_setField_other <;> simp [txAt, TxField.offset]
  · simp only [txDescOf, if_neg h, TxDesc.mk.injEq]
    refine ⟨?_, ?_, ?_, ?_, ?_, ?_, ?_⟩ <;> apply Memory.field_setField_other <;>
      simp only [txAt, descAt, TxField.offset, Config.descSize] <;> omega

theorem txDescOf_setField_cmd (m : Memory) (i j : Nat) (v : Byte) :
    txDescOf (m.setField (txAt i .cmd) v) j = if j = i then { txDescOf m j with cmd := v } else txDescOf m j := by
  by_cases h : j = i
  · subst h
    simp only [txDescOf, if_true, Memory.field_setField_same _ _ _ (show 8 % 8 = 0 from rfl), TxDesc.mk.injEq, true_and]
    refine ⟨?_, ?_, ?_, ?_, ?_, ?_⟩ <;> apply Memory.field_setField_other <;> simp [txAt, TxField.offset]
  · simp only [txDescOf, if_neg h, TxDesc.mk.injEq]
    refine ⟨?_, ?_, ?_, ?_, ?_, ?_, ?_⟩ <;> apply Memory.field_setField_other <;>
      simp only [txAt, descAt, TxField.offset, Config.descSize] <;> omega

theorem txDescOf_setField_status (m : Memory) (i j : Nat) (v : Byte) :
    txDescOf (m.setField (txAt i .status) v) j = if j = i then { txDescOf m j with status := v } else txDescOf m j := by
  by_cases h : j = i
  · subst h
    simp only [txDescOf, if_true, Memory.field_setField_same _ _ _ (show 8 % 8 = 0 from rfl), TxDesc.mk.injEq, true_and]
    refine ⟨?_, ?_, ?_, ?_, ?_, ?_⟩ <;> apply Memory.field_setField_other <;> simp [txAt, TxField.offset]
  · simp only [txDescOf, if_neg h, TxDesc.mk.injEq]
    refine ⟨?_, ?_, ?_, ?_, ?_, ?_, ?_⟩ <;> apply Memory.field_setField_other <;>
      simp only [txAt, descAt, TxField.offset, Config.descSize] <;> omega

theorem rxDescOf_setField_addr (m : Memory) (i j : Nat) (v : BusAddr) :
    rxDescOf (m.setField (rxAt i .addr) v) j = if j = i then { rxDescOf m j with addr := v } else rxDescOf m j := by
  by_cases h : j = i
  · subst h
    simp only [rxDescOf, if_true, Memory.field_setField_same _ _ _ (show 64 % 8 = 0 from rfl), RxDesc.mk.injEq, true_and]
    refine ⟨?_, ?_, ?_, ?_, ?_⟩ <;> apply Memory.field_setField_other <;> simp [rxAt, RxField.offset]
  · simp only [rxDescOf, if_neg h, RxDesc.mk.injEq]
    refine ⟨?_, ?_, ?_, ?_, ?_, ?_⟩ <;> apply Memory.field_setField_other <;>
      simp only [rxAt, descAt, RxField.offset, Config.descSize] <;> omega

theorem rxDescOf_setField_length (m : Memory) (i j : Nat) (v : Half) :
    rxDescOf (m.setField (rxAt i .length) v) j = if j = i then { rxDescOf m j with length := v } else rxDescOf m j := by
  by_cases h : j = i
  · subst h
    simp only [rxDescOf, if_true, Memory.field_setField_same _ _ _ (show 16 % 8 = 0 from rfl), RxDesc.mk.injEq, true_and]
    refine ⟨?_, ?_, ?_, ?_, ?_⟩ <;> apply Memory.field_setField_other <;> simp [rxAt, RxField.offset]
  · simp only [rxDescOf, if_neg h, RxDesc.mk.injEq]
    refine ⟨?_, ?_, ?_, ?_, ?_, ?_⟩ <;> apply Memory.field_setField_other <;>
      simp only [rxAt, descAt, RxField.offset, Config.descSize] <;> omega

theorem rxDescOf_setField_checksum (m : Memory) (i j : Nat) (v : Half) :
    rxDescOf (m.setField (rxAt i .checksum) v) j = if j = i then { rxDescOf m j with checksum := v } else rxDescOf m j := by
  by_cases h : j = i
  · subst h
    simp only [rxDescOf, if_true, Memory.field_setField_same _ _ _ (show 16 % 8 = 0 from rfl), RxDesc.mk.injEq, true_and]
    refine ⟨?_, ?_, ?_, ?_, ?_⟩ <;> apply Memory.field_setField_other <;> simp [rxAt, RxField.offset]
  · simp only [rxDescOf, if_neg h, RxDesc.mk.injEq]
    refine ⟨?_, ?_, ?_, ?_, ?_, ?_⟩ <;> apply Memory.field_setField_other <;>
      simp only [rxAt, descAt, RxField.offset, Config.descSize] <;> omega

theorem rxDescOf_setField_status (m : Memory) (i j : Nat) (v : Byte) :
    rxDescOf (m.setField (rxAt i .status) v) j = if j = i then { rxDescOf m j with status := v } else rxDescOf m j := by
  by_cases h : j = i
  · subst h
    simp only [rxDescOf, if_true, Memory.field_setField_same _ _ _ (show 8 % 8 = 0 from rfl), RxDesc.mk.injEq, true_and]
    refine ⟨?_, ?_, ?_, ?_, ?_⟩ <;> apply Memory.field_setField_other <;> simp [rxAt, RxField.offset]
  · simp only [rxDescOf, if_neg h, RxDesc.mk.injEq]
    refine ⟨?_, ?_, ?_, ?_, ?_, ?_⟩ <;> apply Memory.field_setField_other <;>
      simp only [rxAt, descAt, RxField.offset, Config.descSize] <;> omega

theorem rxDescOf_setField_errors (m : Memory) (i j : Nat) (v : Byte) :
    rxDescOf (m.setField (rxAt i .errors) v) j = if j = i then { rxDescOf m j with errors := v } else rxDescOf m j := by
  by_cases h : j = i
  · subst h
    simp only [rxDescOf, if_true, Memory.field_setField_same _ _ _ (show 8 % 8 = 0 from rfl), RxDesc.mk.injEq, true_and]
    refine ⟨?_, ?_, ?_, ?_, ?_⟩ <;> apply Memory.field_setField_other <;> simp [rxAt, RxField.offset]
  · simp only [rxDescOf, if_neg h, RxDesc.mk.injEq]
    refine ⟨?_, ?_, ?_, ?_, ?_, ?_⟩ <;> apply Memory.field_setField_other <;>
      simp only [rxAt, descAt, RxField.offset, Config.descSize] <;> omega

theorem rxDescOf_setField_special (m : Memory) (i j : Nat) (v : Half) :
    rxDescOf (m.setField (rxAt i .special) v) j = if j = i then { rxDescOf m j with special := v } else rxDescOf m j := by
  by_cases h : j = i
  · subst h
    simp only [rxDescOf, if_true, Memory.field_setField_same _ _ _ (show 16 % 8 = 0 from rfl), RxDesc.mk.injEq, and_true]
    refine ⟨?_, ?_, ?_, ?_, ?_⟩ <;> apply Memory.field_setField_other <;> simp [rxAt, RxField.offset]
  · simp only [rxDescOf, if_neg h, RxDesc.mk.injEq]
    refine ⟨?_, ?_, ?_, ?_, ?_, ?_⟩ <;> apply Memory.field_setField_other <;>
      simp only [rxAt, descAt, RxField.offset, Config.descSize] <;> omega

/-! ## The commands' and engines' descriptor writes -/

theorem fillTx_txDesc (s : State) (c : Nat) (len : Half) (data : Bytes) (j : Nat) :
    (s.fillTx c len data).txDesc j =
      if j = c then
        { s.txDesc c with length := len, status := clearTxDone (s.txDesc c).status, cmd := cmdRsEop }
      else s.txDesc j := by
  simp only [State.fillTx, State.txDesc, State.setTx, State.setTxd, State.writeTxBuf, State.setTxb, txDescOf_setField_cmd, txDescOf_setField_status,
    txDescOf_setField_length]
  by_cases h : j = c <;> simp [h]

theorem handBack_rxDesc (s : State) (c j : Nat) :
    (s.handBack c).rxDesc j =
      if j = c then { s.rxDesc c with status := clearRxDoneEop (s.rxDesc c).status } else s.rxDesc j := by
  simp only [State.handBack, State.setReg, State.rxDesc, State.setRx, State.setRxd, rxDescOf_setField_status]
  by_cases h : j = c <;> simp [h]

theorem setTx_status_txDesc (s : State) (i j : Nat) (v : Byte) :
    (s.setTx i .status v).txDesc j = if j = i then { s.txDesc i with status := v } else s.txDesc j := by
  simp only [State.txDesc, State.setTx, State.setTxd, txDescOf_setField_status]
  by_cases h : j = i <;> simp [h]

theorem fillSlot_rxDesc (s : State) (h : Nat) (frame : Bytes) (draw : RxDraw) (j : Nat) :
    (s.fillSlot h frame draw).rxDesc j =
      if j = h then
        { addr := (s.rxDesc h).addr, length := BitVec.ofNat 16 frame.length, checksum := draw.checksum,
          status := statusFilled draw.statusHigh, errors := draw.errors, special := draw.special }
      else s.rxDesc j := by
  simp only [State.fillSlot, State.setReg, State.rxDesc, State.setRx, State.setRxd, State.writeRxBuf, State.setRxb, rxDescOf_setField_status,
    rxDescOf_setField_special, rxDescOf_setField_errors, rxDescOf_setField_checksum, rxDescOf_setField_length]
  by_cases hj : j = h <;> simp [hj]

/-! ## ATTACH's rings (R154, R158) -/

/-- Equal pieces, laid out one after another: piece `i` stands at `n * i`. -/
theorem flatMap_drop_take {f : Nat → Bytes} {n : Nat} (hf : ∀ i, (f i).length = n) (l : List Nat) (i : Nat)
    (hi : i < l.length) : ((l.flatMap f).drop (n * i)).take n = f l[i] := by
  induction l generalizing i with
  | nil => exact absurd hi (Nat.not_lt_zero _)
  | cons x l ih =>
    cases i with
    | zero => simp [List.flatMap_cons, ← hf x]
    | succ i =>
      have hl : n * (i + 1) = (f x).length + n * i := by rw [hf x]; ring
      rw [List.flatMap_cons, hl, ← List.drop_drop, List.drop_left, List.getElem_cons_succ]
      exact ih i (by simpa using hi)

/-- Past the bytes of a field nothing of it is left. -/
theorem drop_leBytes (n k v : Nat) (h : n ≤ k) : (leBytes n v).drop k = [] := List.drop_eq_nil_of_le (by simpa using h)

theorem take_leBytes (n v : Nat) : (leBytes n v).take n = leBytes n v := List.take_of_length_le (by simp)

theorem flatMap_length {f : Nat → Bytes} {n : Nat} (hf : ∀ i, (f i).length = n) (l : List Nat) :
    (l.flatMap f).length = n * l.length := by
  induction l with
  | nil => rfl
  | cons x l ih =>
    rw [List.flatMap_cons, List.length_append, ih, hf x, List.length_cons]
    ring

@[simp] theorem txDescBytes_length (d : TxDesc) : (txDescBytes d).length = Config.descSize := by simp [txDescBytes]

@[simp] theorem rxDescBytes_length (d : RxDesc) : (rxDescBytes d).length = Config.descSize := by simp [rxDescBytes]

/-- The descriptor a ring holds is what its 16 bytes say (R119, R125). -/
theorem txDescOf_of_bytes (m : Memory) (i : Nat) (d : TxDesc) (h : m.bytes (descAt i) 16 = txDescBytes d) :
    txDescOf m i = d := by
  simp only [txDescOf, txAt]
  simp only [Memory.field_of_bytes 64 m (descAt i) 16 (TxField.offset .addr) (by decide),
    Memory.field_of_bytes 16 m (descAt i) 16 (TxField.offset .length) (by decide),
    Memory.field_of_bytes 8 m (descAt i) 16 (TxField.offset .cso) (by decide),
    Memory.field_of_bytes 8 m (descAt i) 16 (TxField.offset .cmd) (by decide),
    Memory.field_of_bytes 8 m (descAt i) 16 (TxField.offset .status) (by decide),
    Memory.field_of_bytes 8 m (descAt i) 16 (TxField.offset .css) (by decide),
    Memory.field_of_bytes 16 m (descAt i) 16 (TxField.offset .special) (by decide), h]
  obtain ⟨addr, length, cso, cmd, status, css, special⟩ := d
  simp [txDescBytes, TxField.offset, List.drop_append, leNat_leBytes, drop_leBytes, take_leBytes]
  exact ⟨by bv_omega, by bv_omega, by bv_omega, by bv_omega, by bv_omega, by bv_omega, by bv_omega⟩

/-- The descriptor a ring holds is what its 16 bytes say (R122, R125). -/
theorem rxDescOf_of_bytes (m : Memory) (i : Nat) (d : RxDesc) (h : m.bytes (descAt i) 16 = rxDescBytes d) :
    rxDescOf m i = d := by
  simp only [rxDescOf, rxAt]
  simp only [Memory.field_of_bytes 64 m (descAt i) 16 (RxField.offset .addr) (by decide),
    Memory.field_of_bytes 16 m (descAt i) 16 (RxField.offset .length) (by decide),
    Memory.field_of_bytes 16 m (descAt i) 16 (RxField.offset .checksum) (by decide),
    Memory.field_of_bytes 8 m (descAt i) 16 (RxField.offset .status) (by decide),
    Memory.field_of_bytes 8 m (descAt i) 16 (RxField.offset .errors) (by decide),
    Memory.field_of_bytes 16 m (descAt i) 16 (RxField.offset .special) (by decide), h]
  obtain ⟨addr, length, checksum, status, errors, special⟩ := d
  simp [rxDescBytes, RxField.offset, List.drop_append, leNat_leBytes, drop_leBytes, take_leBytes]
  exact ⟨by bv_omega, by bv_omega, by bv_omega, by bv_omega, by bv_omega, by bv_omega⟩

/-- A TX descriptor after ATTACH. -/
theorem txDescOf_initTxd (p : Platform) (i : Nat) (h : i < Config.txCap) : txDescOf (initTxd p) i = txDescInit p i := by
  apply txDescOf_of_bytes
  have hf : ∀ i, (txDescBytes (txDescInit p i)).length = 16 := fun i => txDescBytes_length _
  rw [initTxd, descAt, Memory.bytes_ofBytes, flatMap_drop_take hf, List.getElem_range]
  · simpa using h
  · rw [flatMap_length hf, List.length_range]
    simp only [Config.txCap, Config.descSize] at *
    omega

/-- An RX descriptor after ATTACH. -/
theorem rxDescOf_initRxd (p : Platform) (i : Nat) (h : i < Config.rxCap) : rxDescOf (initRxd p) i = rxDescInit p i := by
  apply rxDescOf_of_bytes
  have hf : ∀ i, (rxDescBytes (rxDescInit p i)).length = 16 := fun i => rxDescBytes_length _
  rw [initRxd, descAt, Memory.bytes_ofBytes, flatMap_drop_take hf, List.getElem_range]
  · simpa using h
  · rw [flatMap_length hf, List.length_range]
    simp only [Config.rxCap, Config.descSize] at *
    omega

/-! ## Buffers -/

/-- The packet written into a buffer is read back from it. -/
theorem txBuf_writeTxBuf_same (s : State) (i : Nat) (v : Bytes) : (s.writeTxBuf i v).txBuf i 0 v.length = v := by
  simpa [State.txBuf, State.writeTxBuf, State.setTxb] using Memory.bytes_writeBytes_same s.txb (txBufAt i) v

/-- A write inside one TX buffer leaves the other buffers. -/
theorem txBuf_writeTxBuf_other (s : State) (i j n : Nat) (v : Bytes) (hv : v.length ≤ Config.txBufSize)
    (hn : n ≤ Config.txBufSize) (h : j ≠ i) : (s.writeTxBuf i v).txBuf j 0 n = s.txBuf j 0 n := by
  simp only [State.txBuf, State.writeTxBuf, State.setTxb]
  apply Memory.bytes_writeBytes_other
  simp only [txBufAt, Config.txBufSize] at *
  omega

/-- The frame deposited in a buffer is read back from it. -/
theorem rxBuf_writeRxBuf_same (s : State) (i : Nat) (v : Bytes) : (s.writeRxBuf i v).rxBuf i 0 v.length = v := by
  simpa [State.rxBuf, State.writeRxBuf, State.setRxb] using Memory.bytes_writeBytes_same s.rxb (rxBufAt i) v

/-- A write inside one RX buffer leaves the other buffers. -/
theorem rxBuf_writeRxBuf_other (s : State) (i j n : Nat) (v : Bytes) (hv : v.length ≤ Config.rxBufSize)
    (hn : n ≤ Config.rxBufSize) (h : j ≠ i) : (s.writeRxBuf i v).rxBuf j 0 n = s.rxBuf j 0 n := by
  simp only [State.rxBuf, State.writeRxBuf, State.setRxb]
  apply Memory.bytes_writeBytes_other
  simp only [rxBufAt, Config.rxBufSize] at *
  omega

end Sys2Proof.Machine
end

