-- ==== Sys2Proof/Laws/Meanings.lean ====
section
/-! SUPPORT. Everything each command, engine and step can do, said once: one inversion lemma each, to be cited where a proof
would otherwise unfold the definition. -/

namespace Sys2Proof.Machine

/-! ## Bounds (R81, R82) -/

/-- A TX descriptor lies in its space exactly where its index is a slot. -/
theorem holds_txDesc (i : Nat) : Space.txd.holds (descAt i) Config.descSize = decide (i < Config.txCap) := by
  show decide (Config.descSize * i + Config.descSize ≤ Config.txCap * Config.descSize) = _
  simp only [decide_eq_decide, Config.txCap, Config.descSize]
  omega

/-- An RX descriptor lies in its space exactly where its index is a slot. -/
theorem holds_rxDesc (i : Nat) : Space.rxd.holds (descAt i) Config.descSize = decide (i < Config.rxCap) := by
  show decide (Config.descSize * i + Config.descSize ≤ Config.rxCap * Config.descSize) = _
  simp only [decide_eq_decide, Config.rxCap, Config.descSize]
  omega

/-! ## The commands -/

/-- ATTACH ends in one of these ways (R150, R300). -/
theorem attach_cases (s : State) :
    (platformValid s.platform = false ∧ s.attach = s.refuse .platformInvalid) ∨
    (platformValid s.platform = true ∧ s.mode = .failed ∧ s.attach = s.fault .useAfterAttachFailure) ∨
    (platformValid s.platform = true ∧ s.mode = .attached ∧ s.attach = s.fault .reattach) ∨
    (platformValid s.platform = true ∧ s.mode = .unattached ∧ s.reg .status ≠ Config.statusSignature ∧
      s.attach = (s.setMode .failed).result .deviceAttachFailure) ∨
    (platformValid s.platform = true ∧ s.mode = .unattached ∧ s.reg .status = Config.statusSignature ∧
      s.attach = s.attachOk) := by
  unfold State.attach
  cases hp : platformValid s.platform
  · exact .inl ⟨rfl, rfl⟩
  · cases hm : s.mode
    · by_cases hs : s.reg .status = Config.statusSignature <;> simp [hs]
    · simp
    · simp

/-- TRANSMIT ends in one of these ways (R180, R300). -/
theorem transmit_cases (s : State) (len : Half) (data : Bytes) :
    (s.mode = .unattached ∧ s.transmit len data = s.fault .notAttached) ∨
    (s.mode = .failed ∧ s.transmit len data = s.fault .useAfterAttachFailure) ∨
    (s.mode = .attached ∧ Config.maxFrame ≤ len.toNat ∧ s.transmit len data = s.result .packetTooLarge) ∨
    (s.mode = .attached ∧ len.toNat < Config.maxFrame ∧ data.length < len.toNat ∧
      s.transmit len data = s.refuse .hostDataShort) ∨
    (s.mode = .attached ∧ len.toNat < Config.maxFrame ∧ len.toNat ≤ data.length ∧ s.txDone s.txCandidate = false ∧
      s.transmit len data = s.result .ringFull) ∨
    (s.mode = .attached ∧ len.toNat < Config.maxFrame ∧ len.toNat ≤ data.length ∧ s.txDone s.txCandidate = true ∧
      s.txCollapses = true ∧ s.transmit len data = (s.raise .txWindowCollapse).transmitOk len data) ∨
    (s.mode = .attached ∧ len.toNat < Config.maxFrame ∧ len.toNat ≤ data.length ∧ s.txDone s.txCandidate = true ∧
      s.txCollapses = false ∧ s.transmit len data = s.transmitOk len data) := by
  unfold State.transmit
  cases hm : s.mode
  · exact .inl ⟨rfl, rfl⟩
  · by_cases h1 : Config.maxFrame ≤ len.toNat
    · simp [h1]
    · by_cases h2 : data.length < len.toNat
      · simp [h1, h2, Nat.lt_of_not_le h1]
      · have h2' : len.toNat ≤ data.length := Nat.le_of_not_lt h2
        cases h3 : s.txDone s.txCandidate
        · simp [h1, h2, h2', Nat.lt_of_not_le h1]
        · cases h4 : s.txCollapses <;> simp [h1, h2, h2', Nat.lt_of_not_le h1]
  · exact .inr (.inl ⟨rfl, rfl⟩)

/-- RECEIVE ends in one of these ways (R220, R300). -/
theorem receive_cases (s : State) :
    (s.mode = .unattached ∧ s.receive = s.fault .notAttached) ∨
    (s.mode = .failed ∧ s.receive = s.fault .useAfterAttachFailure) ∨
    (s.mode = .attached ∧ s.rxDone s.rxCursor = false ∧ s.receive = s.result .noPacketAvailable) ∨
    (s.mode = .attached ∧ s.rxDone s.rxCursor = true ∧ Config.rxBufSize < (s.rxDesc s.rxCursor).length.toNat ∧
      s.receive = s.fault .invariantBroken) ∨
    (s.mode = .attached ∧ s.rxDone s.rxCursor = true ∧ (s.rxDesc s.rxCursor).length.toNat ≤ Config.rxBufSize ∧
      s.receive = s.receiveOk s.rxCursor) := by
  unfold State.receive
  cases hm : s.mode
  · exact .inl ⟨rfl, rfl⟩
  · cases h1 : s.rxDone s.rxCursor
    · simp
    · by_cases h2 : Config.rxBufSize < (s.rxDesc s.rxCursor).length.toNat
      · simp [h2]
      · simp [h2, Nat.le_of_not_lt h2]
  · exact .inr (.inl ⟨rfl, rfl⟩)

/-! ## The engines -/

/-- TXE's step ends in one of these ways (R195). -/
theorem txeDrain_cases (s : State) :
    (s.txeEnabled = false ∧ s.txeDrain = s) ∨
    (s.txeEnabled = true ∧ (Config.txCap ≤ (s.reg .tdh).toNat ∨
        Config.txBufSize < (s.txDesc (s.reg .tdh).toNat).length.toNat) ∧ s.txeDrain = s.raise .invariantBroken) ∨
    (s.txeEnabled = true ∧ (s.reg .tdh).toNat < Config.txCap ∧
      (s.txDesc (s.reg .tdh).toNat).length.toNat ≤ Config.txBufSize ∧
      s.txeDrain = s.drainSlot (s.reg .tdh).toNat) := by
  simp only [State.txeDrain]
  cases h1 : s.txeEnabled
  · exact .inl ⟨rfl, rfl⟩
  · rw [holds_txDesc]
    by_cases h : (s.reg .tdh).toNat < Config.txCap
    · rw [decide_eq_true h]
      by_cases h3 : Config.txBufSize < (s.txDesc (s.reg .tdh).toNat).length.toNat
      · exact .inr (.inl ⟨rfl, .inr h3, by simp [h3]⟩)
      · exact .inr (.inr ⟨rfl, h, Nat.le_of_not_lt h3, by simp [h3]⟩)
    · rw [decide_eq_false h]
      exact .inr (.inl ⟨rfl, .inl (Nat.le_of_not_lt h), by simp⟩)

/-- RXE's step ends in one of these ways (R236, R242). -/
theorem rxeFill_cases (s : State) (frame : Bytes) (draw : RxDraw) :
    ((Config.rxBufSize < frame.length ∨ s.rxEnable = false ∨
        ((s.reg .rdh).toNat < Config.rxCap ∧ s.rxAvail (s.reg .rdh).toNat = false)) ∧ s.rxeFill frame draw = s) ∨
    (frame.length ≤ Config.rxBufSize ∧ s.rxEnable = true ∧ Config.rxCap ≤ (s.reg .rdh).toNat ∧
      s.rxeFill frame draw = s.raise .invariantBroken) ∨
    (frame.length ≤ Config.rxBufSize ∧ s.rxEnable = true ∧ (s.reg .rdh).toNat < Config.rxCap ∧
      s.rxAvail (s.reg .rdh).toNat = true ∧ s.rxeFill frame draw = s.fillSlot (s.reg .rdh).toNat frame draw) := by
  simp only [State.rxeFill]
  by_cases h0 : Config.rxBufSize < frame.length
  · exact .inl ⟨.inl h0, by simp [h0]⟩
  · have h0' := Nat.le_of_not_lt h0
    cases h1 : s.rxEnable
    · exact .inl ⟨.inr (.inl rfl), by simp [h0]⟩
    · rw [holds_rxDesc]
      by_cases h : (s.reg .rdh).toNat < Config.rxCap
      · rw [decide_eq_true h]
        cases h3 : s.rxAvail (s.reg .rdh).toNat
        · exact .inl ⟨.inr (.inr ⟨h, rfl⟩), by simp [h0]⟩
        · exact .inr (.inr ⟨h0', rfl, h, rfl, by simp [h0]⟩)
      · rw [decide_eq_false h]
        exact .inr (.inl ⟨h0', rfl, Nat.le_of_not_lt h, by simp [h0]⟩)

/-! ## Labels and steps -/

/-- A command word does what its command does, or raises `IllegalCommand` (R114). -/
theorem hostCommand_cases (w : Word) (data : Bytes) (s t : State) (h : hostCommand w data s = .next t) :
    (∃ e, decode w data = .error e ∧ t = s.fault .illegalCommand) ∨
    (decode w data = .ok .attach ∧ t = s.attach) ∨
    (∃ len d, decode w data = .ok (.transmit len d) ∧ t = s.transmit len d) ∨
    (decode w data = .ok .receive ∧ t = s.receive) := by
  unfold hostCommand at h
  split at h
  · next i hi =>
    cases i with
    | attach => exact .inr (.inl ⟨hi, by simpa [exec, execAttach] using h.symm⟩)
    | transmit len d => exact .inr (.inr (.inl ⟨len, d, hi, by simpa [exec, execTransmit] using h.symm⟩))
    | receive => exact .inr (.inr (.inr ⟨hi, by simpa [exec, execReceive] using h.symm⟩))
  · next e he => exact .inl ⟨e, he, by simpa using h.symm⟩

/-- No label stops the machine. -/
theorem runLabel_next (l : Label) (s : State) : ∃ t, runLabel l s = .next t := by
  cases l with
  | host w data =>
    simp only [runLabel, hostCommand]
    split
    · next i _ => cases i <;> exact ⟨_, rfl⟩
    · exact ⟨_, rfl⟩
  | txeDrain => exact ⟨_, rfl⟩
  | rxeFill frame draw => exact ⟨_, rfl⟩

/-- Every way one label can change the state. -/
theorem runLabel_cases (l : Label) (s t : State) (h : runLabel l s = .next t) :
    t = s.fault .illegalCommand ∨ t = s.attach ∨ (∃ len d, t = s.transmit len d) ∨ t = s.receive ∨
    t = s.txeDrain ∨ (∃ frame draw, t = s.rxeFill frame draw) := by
  cases l with
  | host w data =>
    rcases hostCommand_cases w data s t h with ⟨_, _, h⟩ | ⟨_, h⟩ | ⟨len, d, _, h⟩ | ⟨_, h⟩
    · exact .inl h
    · exact .inr (.inl h)
    · exact .inr (.inr (.inl ⟨len, d, h⟩))
    · exact .inr (.inr (.inr (.inl h)))
  | txeDrain => exact .inr (.inr (.inr (.inr (.inl (by simpa [runLabel] using h.symm)))))
  | rxeFill frame draw =>
    exact .inr (.inr (.inr (.inr (.inr ⟨frame, draw, by simpa [runLabel] using h.symm⟩))))

/-- Every way one step can end in a next state: idle, or the next label of the schedule. -/
theorem step_cases (s t : State) (h : step s = .next t) :
    s.refused = none ∧ ((s.pending = [] ∧ t = s) ∨ ∃ l rest, s.pending = l :: rest ∧ runLabel l s.dropLabel = .next t) := by
  simp only [step, nextStep] at h
  cases hr : s.refused with
  | some r => rw [hr] at h; exact nomatch h
  | none =>
    rw [hr] at h
    refine ⟨rfl, ?_⟩
    cases hp : s.pending with
    | nil => rw [hp] at h; exact .inl ⟨rfl, by simpa using h.symm⟩
    | cons l rest => rw [hp] at h; exact .inr ⟨l, rest, rfl, h⟩

end Sys2Proof.Machine
end

