-- ==== Sys2Proof/Laws/Effects.lean ====
section
/-! SUPPORT. The effect of each successful command and engine step on every part of the state: one lemma per part, so that
no later proof unfolds the sequence of writes. -/

namespace Sys2Proof.Machine

/-! ## Flags -/

theorem clearTxDone_dd (b : Byte) : (clearTxDone b).getLsbD 0 = false := by
  simp [clearTxDone]

theorem clearRxDoneEop_dd (b : Byte) : (clearRxDoneEop b).getLsbD 0 = false := by
  simp [clearRxDoneEop]

theorem statusDone_dd : statusDone.getLsbD 0 = true := by decide

theorem statusFilled_dd (h : BitVec 6) : (statusFilled h).getLsbD 0 = true := by
  simp [statusFilled]

@[simp] theorem cmdEop_cmdRsEop : cmdEop cmdRsEop = true := by decide

@[simp] theorem cmdEop_zero : cmdEop 0 = false := by decide

theorem State.txDone_eq (s : State) (i : Nat) : s.txDone i = (s.txDesc i).status.getLsbD 0 := rfl

theorem State.rxDone_eq (s : State) (i : Nat) : s.rxDone i = (s.rxDesc i).status.getLsbD 0 := rfl

/-! ## Cursors -/

theorem nextTx_lt (i : Nat) : nextTx i < Config.txCap := Nat.mod_lt _ (by decide)

theorem nextRx_lt (i : Nat) : nextRx i < Config.rxCap := Nat.mod_lt _ (by decide)

theorem State.txCandidate_lt (s : State) : s.txCandidate < Config.txCap := nextTx_lt _

theorem State.rxCursor_lt (s : State) : s.rxCursor < Config.rxCap := Nat.mod_lt _ (by decide)

/-- A small number survives being written to a register. -/
theorem toNat_ofNat_small (n : Nat) (h : n < 2 ^ 32) : (BitVec.ofNat 32 n).toNat = n := by
  simp only [BitVec.toNat_ofNat]
  exact Nat.mod_eq_of_lt h

theorem packetOf_length_le (len : Half) (data : Bytes) : (packetOf len data).length ≤ len.toNat := by simp [packetOf]

theorem packetOf_length (len : Half) (data : Bytes) (h : len.toNat ≤ data.length) :
    (packetOf len data).length = len.toNat := by simp [packetOf, h]

/-! ## ATTACH's OK -/

/-- The registers ATTACH writes (R156, R157, R160 to R162); CTRL and STATUS are left. -/
theorem attachOk_reg (s : State) (r : Reg) :
    s.attachOk.reg r =
      match r with
      | .ctrl => s.reg .ctrl
      | .status => s.reg .status
      | .rctl => Config.rctlInit
      | .tctl => Config.tctlInit
      | .tipg => s.platform.tipgInit.value
      | .rdbal => s.platform.rxRingBase.extractLsb' 0 32
      | .rdbah => s.platform.rxRingBase.extractLsb' 32 32
      | .rdlen => BitVec.ofNat 32 (Config.rxCap * Config.descSize)
      | .rdh => 0
      | .rdt => BitVec.ofNat 32 Config.rxCap
      | .tdbal => s.platform.txRingBase.extractLsb' 0 32
      | .tdbah => s.platform.txRingBase.extractLsb' 32 32
      | .tdlen => BitVec.ofNat 32 (Config.txCap * Config.descSize)
      | .tdh => 0
      | .tdt => 0
      | .ral => ralOf Config.macAddr
      | .rah => rahOf Config.macAddr := by
  cases r <;> simp [State.attachOk, State.txInit, State.rxInit]

/-- Everything but the registers after ATTACH. -/
theorem attachOk_rest (s : State) :
    s.attachOk.txd = initTxd s.platform ∧ s.attachOk.rxd = initRxd s.platform ∧
    s.attachOk.txb = Memory.zeros ∧ s.attachOk.rxb = Memory.zeros ∧
    s.attachOk.mode = .attached ∧ s.attachOk.txAccum = [] ∧ s.attachOk.txLog = s.txLog ∧
    s.attachOk.faults = s.faults ∧ s.attachOk.refused = s.refused ∧ s.attachOk.pending = s.pending ∧
    s.attachOk.platform = s.platform ∧ s.attachOk.responses = s.responses ++ [⟨responseWord .ok 0, []⟩] := by
  simp [State.attachOk, State.txInit, State.rxInit]

theorem attachOk_txDesc (s : State) (i : Nat) (h : i < Config.txCap) : s.attachOk.txDesc i = txDescInit s.platform i := by
  rw [State.txDesc, (attachOk_rest s).1, txDescOf_initTxd _ _ h]

theorem attachOk_rxDesc (s : State) (i : Nat) (h : i < Config.rxCap) : s.attachOk.rxDesc i = rxDescInit s.platform i := by
  rw [State.rxDesc, (attachOk_rest s).2.1, rxDescOf_initRxd _ _ h]

theorem attachOk_txDone (s : State) (i : Nat) (h : i < Config.txCap) : s.attachOk.txDone i = true := by
  rw [State.txDone_eq, attachOk_txDesc s i h]
  exact statusDone_dd

theorem attachOk_rxDone (s : State) (i : Nat) (h : i < Config.rxCap) : s.attachOk.rxDone i = false := by
  rw [State.rxDone_eq, attachOk_rxDesc s i h]
  exact BitVec.getLsbD_zero

theorem wf_initTxd (p : Platform) : (initTxd p).wf = true ∧ (initTxd p).within Space.txd.size = true :=
  ⟨Memory.wf_ofBytes _ _, Memory.within_ofBytes _ _ _ <| by
    rw [flatMap_length fun i => txDescBytes_length _, List.length_range]
    decide⟩

theorem wf_initRxd (p : Platform) : (initRxd p).wf = true ∧ (initRxd p).within Space.rxd.size = true :=
  ⟨Memory.wf_ofBytes _ _, Memory.within_ofBytes _ _ _ <| by
    rw [flatMap_length fun i => rxDescBytes_length _, List.length_range]
    decide⟩

/-! ## TRANSMIT's OK -/

section
variable (s : State) (len : Half) (data : Bytes)

theorem transmitOk_reg (r : Reg) :
    (s.transmitOk len data).reg r = if r = .tdt then BitVec.ofNat 32 s.txCandidate else s.reg r := by
  by_cases h : r = .tdt <;> simp [State.transmitOk, State.fillTx, State.setTx, State.writeTxBuf, h]

theorem transmitOk_txDesc (j : Nat) :
    (s.transmitOk len data).txDesc j =
      if j = s.txCandidate then
        { s.txDesc s.txCandidate with
          length := len, status := clearTxDone (s.txDesc s.txCandidate).status, cmd := cmdRsEop }
      else s.txDesc j := by
  simp [State.transmitOk, fillTx_txDesc]

theorem transmitOk_txDone (j : Nat) :
    (s.transmitOk len data).txDone j = if j = s.txCandidate then false else s.txDone j := by
  rw [State.txDone_eq, transmitOk_txDesc]
  by_cases h : j = s.txCandidate
  · rw [if_pos h, if_pos h]; exact clearTxDone_dd _
  · rw [if_neg h, if_neg h]; rfl

theorem transmitOk_txb :
    (s.transmitOk len data).txb = s.txb.writeBytes (txBufAt s.txCandidate) (packetOf len data) := by
  simp [State.transmitOk, State.fillTx, State.setTx, State.writeTxBuf]

theorem transmitOk_txBuf_same (h : len.toNat ≤ data.length) :
    (s.transmitOk len data).txBuf s.txCandidate 0 len.toNat = packetOf len data := by
  have := Memory.bytes_writeBytes_same s.txb (txBufAt s.txCandidate) (packetOf len data)
  rw [packetOf_length _ _ h] at this
  simpa [State.txBuf, transmitOk_txb] using this

theorem transmitOk_txBuf_other (j n : Nat) (hl : len.toNat < Config.maxFrame) (hn : n ≤ Config.txBufSize)
    (h : j ≠ s.txCandidate) : (s.transmitOk len data).txBuf j 0 n = s.txBuf j 0 n := by
  simp only [State.txBuf, transmitOk_txb]
  apply Memory.bytes_writeBytes_other
  have hp : (packetOf len data).length ≤ len.toNat := by simp [packetOf]
  simp only [txBufAt, Config.txBufSize, Config.maxFrame] at *
  omega

theorem transmitOk_txd :
    (s.transmitOk len data).txd =
      ((s.txd.setField (txAt s.txCandidate .length) len).setField (txAt s.txCandidate .status)
        (clearTxDone (s.txDesc s.txCandidate).status)).setField (txAt s.txCandidate .cmd) cmdRsEop := by
  have h : ((s.writeTxBuf s.txCandidate (packetOf len data)).setTx s.txCandidate .length len).txDesc s.txCandidate =
      { s.txDesc s.txCandidate with length := len } := by
    simp [State.txDesc, State.setTx, State.setTxd, State.writeTxBuf, State.setTxb, txDescOf_setField_length]
  simp only [State.transmitOk, State.fillTx, h]
  simp [State.setTx, State.writeTxBuf]

/-- The parts of the state TRANSMIT's OK leaves (R186), and the response. -/
theorem transmitOk_rest :
    (s.transmitOk len data).rxd = s.rxd ∧ (s.transmitOk len data).rxb = s.rxb ∧
    (s.transmitOk len data).mode = s.mode ∧ (s.transmitOk len data).txAccum = s.txAccum ∧
    (s.transmitOk len data).txLog = s.txLog ∧ (s.transmitOk len data).faults = s.faults ∧
    (s.transmitOk len data).refused = s.refused ∧ (s.transmitOk len data).pending = s.pending ∧
    (s.transmitOk len data).platform = s.platform ∧
    (s.transmitOk len data).responses = s.responses ++ [⟨responseWord .ok 0, []⟩] := by
  simp [State.transmitOk, State.fillTx, State.setTx, State.writeTxBuf]

end

/-! ## RECEIVE's OK -/

section
variable (s : State) (c : Nat)

theorem receiveOk_reg (r : Reg) :
    (s.receiveOk c).reg r = if r = .rdt then BitVec.ofNat 32 (nextRx c) else s.reg r := by
  by_cases h : r = .rdt <;> simp [State.receiveOk, State.handBack, State.setRx, h]

theorem receiveOk_rxDesc (j : Nat) :
    (s.receiveOk c).rxDesc j =
      if j = c then { s.rxDesc c with status := clearRxDoneEop (s.rxDesc c).status } else s.rxDesc j := by
  simp [State.receiveOk, handBack_rxDesc]

theorem receiveOk_rxDone (j : Nat) : (s.receiveOk c).rxDone j = if j = c then false else s.rxDone j := by
  rw [State.rxDone_eq, receiveOk_rxDesc]
  by_cases h : j = c
  · rw [if_pos h, if_pos h]; exact clearRxDoneEop_dd _
  · rw [if_neg h, if_neg h]; rfl

theorem receiveOk_rxd :
    (s.receiveOk c).rxd = s.rxd.setField (rxAt c .status) (clearRxDoneEop (s.rxDesc c).status) := by
  simp [State.receiveOk, State.handBack, State.setRx]

/-- The parts of the state RECEIVE's OK leaves, and the response. -/
theorem receiveOk_rest :
    (s.receiveOk c).txd = s.txd ∧ (s.receiveOk c).txb = s.txb ∧ (s.receiveOk c).rxb = s.rxb ∧
    (s.receiveOk c).mode = s.mode ∧ (s.receiveOk c).txAccum = s.txAccum ∧ (s.receiveOk c).txLog = s.txLog ∧
    (s.receiveOk c).faults = s.faults ∧ (s.receiveOk c).refused = s.refused ∧ (s.receiveOk c).pending = s.pending ∧
    (s.receiveOk c).platform = s.platform ∧
    (s.receiveOk c).responses = s.responses ++
      [⟨responseWord .ok (s.rxDesc c).length, s.rxBuf c 0 (s.rxDesc c).length.toNat⟩] := by
  simp [State.receiveOk, State.handBack, State.setRx]

end

/-! ## TXE's drain -/

section
variable (s : State) (h : Nat)

theorem drainSlot_reg (r : Reg) :
    (s.drainSlot h).reg r = if r = .tdh then BitVec.ofNat 32 (nextTx h) else s.reg r := by
  cases he : cmdEop (s.txDesc h).cmd <;> by_cases hr : r = .tdh <;>
    simp [State.drainSlot, State.emitDrained, State.setTx, he, hr]

theorem drainSlot_txDesc (j : Nat) :
    (s.drainSlot h).txDesc j = if j = h then { s.txDesc h with status := statusDone } else s.txDesc j := by
  simp only [State.drainSlot, State.setReg_txDesc, setTx_status_txDesc]
  cases he : cmdEop (s.txDesc h).cmd <;> simp [State.emitDrained, he]

theorem drainSlot_txd : (s.drainSlot h).txd = s.txd.setField (txAt h .status) statusDone := by
  cases he : cmdEop (s.txDesc h).cmd <;> simp [State.drainSlot, State.emitDrained, State.setTx, he]

theorem drainSlot_txDone (j : Nat) : (s.drainSlot h).txDone j = if j = h then true else s.txDone j := by
  rw [State.txDone_eq, drainSlot_txDesc]
  by_cases hj : j = h
  · rw [if_pos hj, if_pos hj]; exact statusDone_dd
  · rw [if_neg hj, if_neg hj]; rfl

/-- What TXE sends and what it keeps (R197). -/
theorem drainSlot_emits :
    ((s.drainSlot h).txLog, (s.drainSlot h).txAccum) =
      if cmdEop (s.txDesc h).cmd then
        (s.txLog ++ [s.txAccum ++ s.txBuf h 0 (s.txDesc h).length.toNat], [])
      else (s.txLog, s.txAccum ++ s.txBuf h 0 (s.txDesc h).length.toNat) := by
  cases he : cmdEop (s.txDesc h).cmd <;> simp [State.drainSlot, State.emitDrained, State.setTx, he]

/-- The parts of the state a drain leaves. -/
theorem drainSlot_rest :
    (s.drainSlot h).txb = s.txb ∧ (s.drainSlot h).rxd = s.rxd ∧ (s.drainSlot h).rxb = s.rxb ∧
    (s.drainSlot h).mode = s.mode ∧ (s.drainSlot h).faults = s.faults ∧ (s.drainSlot h).refused = s.refused ∧
    (s.drainSlot h).pending = s.pending ∧ (s.drainSlot h).platform = s.platform ∧
    (s.drainSlot h).responses = s.responses := by
  cases he : cmdEop (s.txDesc h).cmd <;> simp [State.drainSlot, State.emitDrained, State.setTx, he]

end

/-! ## RXE's fill -/

section
variable (s : State) (h : Nat) (frame : Bytes) (draw : RxDraw)

theorem fillSlot_reg (r : Reg) :
    (s.fillSlot h frame draw).reg r = if r = .rdh then BitVec.ofNat 32 (nextRx h) else s.reg r := by
  by_cases hr : r = .rdh <;> simp [State.fillSlot, State.setRx, State.writeRxBuf, hr]

theorem fillSlot_rxd :
    (s.fillSlot h frame draw).rxd =
      ((((s.rxd.setField (rxAt h .length) (BitVec.ofNat 16 frame.length)).setField (rxAt h .checksum) draw.checksum).setField
        (rxAt h .errors) draw.errors).setField (rxAt h .special) draw.special).setField (rxAt h .status)
        (statusFilled draw.statusHigh) := by
  simp [State.fillSlot, State.setRx, State.writeRxBuf]

theorem fillSlot_rxDone (j : Nat) : (s.fillSlot h frame draw).rxDone j = if j = h then true else s.rxDone j := by
  rw [State.rxDone_eq, fillSlot_rxDesc]
  by_cases hj : j = h
  · rw [if_pos hj, if_pos hj]; exact statusFilled_dd _
  · rw [if_neg hj, if_neg hj]; rfl

theorem fillSlot_rxb : (s.fillSlot h frame draw).rxb = s.rxb.writeBytes (rxBufAt h) frame := by
  simp [State.fillSlot, State.setRx, State.writeRxBuf]

theorem fillSlot_rxBuf_same : (s.fillSlot h frame draw).rxBuf h 0 frame.length = frame := by
  simpa [State.rxBuf, fillSlot_rxb] using Memory.bytes_writeBytes_same s.rxb (rxBufAt h) frame

theorem fillSlot_rxBuf_other (j n : Nat) (hf : frame.length ≤ Config.rxBufSize) (hn : n ≤ Config.rxBufSize)
    (hj : j ≠ h) : (s.fillSlot h frame draw).rxBuf j 0 n = s.rxBuf j 0 n := by
  simp only [State.rxBuf, fillSlot_rxb]
  apply Memory.bytes_writeBytes_other
  simp only [rxBufAt, Config.rxBufSize] at *
  omega

/-- The parts of the state a fill leaves. -/
theorem fillSlot_rest :
    (s.fillSlot h frame draw).txd = s.txd ∧ (s.fillSlot h frame draw).txb = s.txb ∧
    (s.fillSlot h frame draw).mode = s.mode ∧ (s.fillSlot h frame draw).txAccum = s.txAccum ∧
    (s.fillSlot h frame draw).txLog = s.txLog ∧ (s.fillSlot h frame draw).faults = s.faults ∧
    (s.fillSlot h frame draw).refused = s.refused ∧ (s.fillSlot h frame draw).pending = s.pending ∧
    (s.fillSlot h frame draw).platform = s.platform ∧ (s.fillSlot h frame draw).responses = s.responses := by
  simp [State.fillSlot, State.setRx, State.writeRxBuf]

end

end Sys2Proof.Machine
end

