-- ==== Sys2Proof/Laws/PerInstr.lean ====
section
/-! SUPPORT. Statements about every command as syntax, one lemma per constructor. -/

namespace Sys2Proof.Laws.EncodedRsvZero

/-- R112: `RSV` is 0 in every command's word. -/
def Statement (i : Instr) : Prop := rsvField (encode i) = 0

theorem attach : Statement .attach := by
  unfold Statement
  decide

theorem transmit (len : Half) (data : Bytes) : Statement (.transmit len data) := by
  unfold Statement encode commandWord rsvField
  apply BitVec.eq_of_getLsbD_eq
  intro i hi
  have h2 : 4 + i < 16 := by omega
  have h3 : ∀ j < 12, (2#32).getLsbD (4 + j) = false := by decide
  simp [hi, h2, h3 i hi]

theorem receive : Statement .receive := by
  unfold Statement
  decide

end Sys2Proof.Laws.EncodedRsvZero
end

