-- ==== Sys2Proof/Laws/Steps.lean ====
section
/-! SUPPORT. What a step can do, said once: a property that each way of changing the state keeps is kept by every step. -/

namespace Sys2Proof.Machine

/-- A property kept by every way of changing the state is kept by every step. The cases: a response, a fault mark, a refusal
mark, the label dropped, ATTACH's failure and its OK, TRANSMIT's OK (after the mark, where the window collapses), RECEIVE's
OK, a drain, a fill. -/
theorem step_preserves (P : State → Prop)
    (respond : ∀ s r, P s → P (s.respond r))
    (raise : ∀ s k, P s → P (s.raise k))
    (refuse : ∀ s k, P s → P (s.refuse k))
    (drop : ∀ s, P s → P s.dropLabel)
    (attachFails : ∀ s, P s → s.mode = .unattached → P ((s.setMode .failed).result .deviceAttachFailure))
    (attachOk : ∀ s, P s → platformValid s.platform = true → s.mode = .unattached →
      s.reg .status = Config.statusSignature → P s.attachOk)
    (transmitOk : ∀ s len data, P s → s.mode = .attached → len.toNat < Config.maxFrame → len.toNat ≤ data.length →
      s.txDone s.txCandidate = true → (s.txCollapses = true → s.faults.has .txWindowCollapse = true) →
      P (s.transmitOk len data))
    (receiveOk : ∀ s, P s → s.mode = .attached → s.rxDone s.rxCursor = true →
      (s.rxDesc s.rxCursor).length.toNat ≤ Config.rxBufSize → P (s.receiveOk s.rxCursor))
    (drain : ∀ s, P s → s.txeEnabled = true → (s.reg .tdh).toNat < Config.txCap →
      (s.txDesc (s.reg .tdh).toNat).length.toNat ≤ Config.txBufSize → P (s.drainSlot (s.reg .tdh).toNat))
    (fill : ∀ s frame draw, P s → frame.length ≤ Config.rxBufSize → s.rxEnable = true →
      (s.reg .rdh).toNat < Config.rxCap → s.rxAvail (s.reg .rdh).toNat = true →
      P (s.fillSlot (s.reg .rdh).toNat frame draw))
    (s t : State) (hs : P s) (ht : step s = .next t) : P t := by
  obtain ⟨_, ⟨_, rfl⟩ | ⟨l, rest, _, hr⟩⟩ := step_cases s t ht
  · exact hs
  generalize hd : s.dropLabel = s₀ at hr
  have h₀ : P s₀ := hd ▸ drop s hs
  have faulted : ∀ k, P (s₀.fault k) := fun k => respond _ _ (raise _ _ h₀)
  rcases runLabel_cases l s₀ t hr with e | e | ⟨len, data, e⟩ | e | e | ⟨frame, draw, e⟩ <;> rw [e]
  · exact faulted _
  · rcases attach_cases s₀ with ⟨_, e⟩ | ⟨_, _, e⟩ | ⟨_, _, e⟩ | ⟨_, hu, _, e⟩ | ⟨hv, hu, hst, e⟩ <;> rw [e]
    · exact refuse _ _ h₀
    · exact faulted _
    · exact faulted _
    · exact attachFails _ h₀ hu
    · exact attachOk _ h₀ hv hu hst
  · rcases transmit_cases s₀ len data with ⟨_, e⟩ | ⟨_, e⟩ | ⟨_, _, e⟩ | ⟨_, _, _, e⟩ | ⟨_, _, _, _, e⟩ |
      ⟨hm, hl, hd, hdd, _, e⟩ | ⟨hm, hl, hd, hdd, hc, e⟩ <;> rw [e]
    · exact faulted _
    · exact faulted _
    · exact respond _ _ h₀
    · exact refuse _ _ h₀
    · exact respond _ _ h₀
    · exact transmitOk _ _ _ (raise _ _ h₀) hm hl hd hdd fun _ => rfl
    · exact transmitOk _ _ _ h₀ hm hl hd hdd fun h => absurd (hc.symm.trans h) (by decide)
  · rcases receive_cases s₀ with ⟨_, e⟩ | ⟨_, e⟩ | ⟨_, _, e⟩ | ⟨_, _, _, e⟩ | ⟨hm, hd, hl, e⟩ <;> rw [e]
    · exact faulted _
    · exact faulted _
    · exact respond _ _ h₀
    · exact faulted _
    · exact receiveOk _ h₀ hm hd hl
  · rcases txeDrain_cases s₀ with ⟨_, e⟩ | ⟨_, _, e⟩ | ⟨ha, hb, hc, e⟩ <;> rw [e]
    · exact h₀
    · exact raise _ _ h₀
    · exact drain _ h₀ ha hb hc
  · rcases rxeFill_cases s₀ frame draw with ⟨_, e⟩ | ⟨_, _, _, e⟩ | ⟨hl, he, hh, ha, e⟩ <;> rw [e]
    · exact h₀
    · exact raise _ _ h₀
    · exact fill _ _ _ h₀ hl he hh ha

end Sys2Proof.Machine
end

