-- ==== Sys2Proof/Laws/Rings.lean ====
section
/-! SUPPORT. The shapes of the two rings (`State.TxRing`, `State.RxRing`): ATTACH sets them up, each ring operation keeps
them, and what does not touch a ring's own state keeps its shape. -/

namespace Sys2Proof.Machine

/-! ## The TX ring -/

/-- The shape depends on TCTL, TDH, TDT, the TX descriptors and the accumulated bytes alone. -/
theorem State.TxRing.congr {s t : State} (h : s.TxRing) (hr : ∀ r, r = .tctl ∨ r = .tdh ∨ r = .tdt → t.reg r = s.reg r)
    (hd : t.txd = s.txd) (ha : t.txAccum = s.txAccum) : t.TxRing := by
  have h1 := hr .tctl (.inl rfl)
  have h2 := hr .tdh (.inr (.inl rfl))
  have h3 := hr .tdt (.inr (.inr rfl))
  have hx : t.txDesc = s.txDesc := by funext i; simp only [State.txDesc, hd]
  have hy : t.txDone = s.txDone := by funext i; simp only [State.txDone, hx]
  obtain ⟨a, b, c, d, e, f, g, i⟩ := h
  constructor <;> simp only [State.isDummy, State.txEnable, h1, h2, h3, hx, hy, ha] at * <;> assumption

theorem attachOk_tdt (s : State) : (s.attachOk.reg .tdt).toNat = 0 := by simp [attachOk_reg]

/-- ATTACH's ring, the dummy slot at its head (R200). -/
theorem attachOk_TxRing (s : State) : s.attachOk.TxRing where
  enabled := by simp [State.txEnable, attachOk_reg]; decide
  head := by simp [attachOk_reg]
  tail := by simp [attachOk_reg]
  window i _ h := by simp [attachOk_reg, inWindow] at h
  atTail := by
    have h := attachOk_tdt s
    refine .inr ⟨⟨h, ?_, ?_, ?_⟩, by simp [attachOk_reg]⟩
    · rw [h, attachOk_txDesc s 0 (by decide)]; rfl
    · rw [h, attachOk_txDesc s 0 (by decide)]; rfl
    · rw [h, attachOk_txDone s 0 (by decide)]
  others i hi _ _ := attachOk_txDone s i hi
  pending i hi h := by rw [attachOk_txDone s i hi] at h; exact nomatch h
  accum := (attachOk_rest s).2.2.2.2.2.1

/-- An accepted TRANSMIT that does not collapse the window. -/
theorem State.TxRing.transmitOk {s : State} (h : s.TxRing) (len : Half) (data : Bytes) (hl : len.toNat < Config.maxFrame)
    (hc : s.txCandidate ≠ (s.reg .tdh).toNat) : (s.transmitOk len data).TxRing := by
  obtain ⟨a, b, c, d, e, f, g, i⟩ := h
  have hlt := s.txCandidate_lt
  have hcd : s.txCandidate = ((s.reg .tdt).toNat + 1) % 64 := rfl
  have h1 : (s.transmitOk len data).reg .tdh = s.reg .tdh := by rw [transmitOk_reg]; rfl
  have h2 : ((s.transmitOk len data).reg .tdt).toNat = s.txCandidate := by
    rw [transmitOk_reg, if_pos rfl, toNat_ofNat_small]
    simp at hlt
    omega
  have hdesc : ∀ j, j ≠ s.txCandidate → (s.transmitOk len data).txDesc j = s.txDesc j := fun j hj => by
    rw [transmitOk_txDesc, if_neg hj]
  have hdone : ∀ j, j ≠ s.txCandidate → (s.transmitOk len data).txDone j = s.txDone j := fun j hj => by
    rw [transmitOk_txDone, if_neg hj]
  have hdum : ∀ j, j ≠ s.txCandidate → s.isDummy j → (s.transmitOk len data).isDummy j := fun j hj hd => by
    unfold State.isDummy
    rw [hdesc j hj, hdone j hj]
    exact hd
  simp only [Config.txCap] at *
  constructor
  · rw [← a]; unfold State.txEnable; rw [transmitOk_reg]; rfl
  · rw [h1]; exact b
  · rw [h2]; exact hlt
  · intro j hj hw
    rw [h1, h2] at hw
    simp only [inWindow, decide_eq_true_eq, Config.txCap] at *
    have hjc : j ≠ s.txCandidate := by intro hh; rw [hh] at hw; omega
    rw [hdone j hjc, h1]
    by_cases hjt : j = (s.reg .tdt).toNat
    · rcases e with e | ⟨e, e'⟩
      · left; rw [hjt]; exact e
      · right; rw [hjt]; exact ⟨hdum _ (by omega) e, by rw [e']⟩
    · rcases d j hj (by rw [hcd] at hw; omega) with d | ⟨d, d'⟩
      · exact .inl d
      · exact .inr ⟨hdum _ hjc d, d'⟩
  · left; rw [h2, transmitOk_txDone, if_pos rfl]
  · intro j hj hw hjt
    rw [h1, h2] at hw
    rw [h2] at hjt
    rw [hdone j hjt]
    simp only [inWindow, decide_eq_false_iff_not, Config.txCap] at *
    rw [hcd] at hw hc
    exact f j hj (by omega) (by omega)
  · intro j hj hn
    by_cases hjc : j = s.txCandidate
    · rw [transmitOk_txDesc, if_pos hjc]; exact ⟨rfl, hl⟩
    · rw [hdone j hjc] at hn; rw [hdesc j hjc]; exact g j hj hn
  · rw [(transmitOk_rest s len data).2.2.2.1]; exact i

/-- A drain. -/
theorem State.TxRing.drainSlot {s : State} (h : s.TxRing) (hne : s.reg .tdh ≠ s.reg .tdt) :
    (s.drainSlot (s.reg .tdh).toNat).TxRing := by
  obtain ⟨a, b, c, d, e, f, g, i⟩ := h
  have hne' : (s.reg .tdh).toNat ≠ (s.reg .tdt).toNat := fun h => hne (BitVec.eq_of_toNat_eq h)
  generalize hh : (s.reg .tdh).toNat = h at *
  have hlt := nextTx_lt h
  have hcd : nextTx h = (h + 1) % 64 := rfl
  have h1 : ((s.drainSlot h).reg .tdh).toNat = nextTx h := by
    rw [drainSlot_reg, if_pos rfl, toNat_ofNat_small]
    simp at hlt
    omega
  have h2 : (s.drainSlot h).reg .tdt = s.reg .tdt := by rw [drainSlot_reg]; rfl
  have hdone : ∀ j, j ≠ h → (s.drainSlot h).txDone j = s.txDone j := fun j hj => by rw [drainSlot_txDone, if_neg hj]
  simp only [Config.txCap] at *
  have hhw := d h b (by simp [inWindow]; omega)
  have htd : s.txDone (s.reg .tdt).toNat = false := e.resolve_right fun e => hne e.2.symm
  constructor
  · rw [← a]; unfold State.txEnable; rw [drainSlot_reg]; rfl
  · rw [h1]; exact hlt
  · rw [h2]; exact c
  · intro j hj hw
    rw [h1, h2] at hw
    simp only [inWindow, decide_eq_true_eq, Config.txCap] at *
    have hjh : j ≠ h := by intro hh; rw [hh] at hw; omega
    rcases d j hj (by omega) with d | ⟨d, d'⟩
    · left; rw [hdone j hjh]; exact d
    · exact absurd d' hjh
  · left; rw [h2, hdone _ (by omega)]; exact htd
  · intro j hj hw hjt
    rw [h1, h2] at hw
    rw [h2] at hjt
    by_cases hjh : j = h
    · rw [drainSlot_txDone, if_pos hjh]
    · rw [hdone j hjh]
      simp only [inWindow, decide_eq_false_iff_not, Config.txCap] at *
      exact f j hj (by omega) hjt
  · intro j hj hn
    by_cases hjh : j = h
    · rw [drainSlot_txDone, if_pos hjh] at hn; exact nomatch hn
    · rw [hdone j hjh] at hn; rw [drainSlot_txDesc, if_neg hjh]; exact g j hj hn
  · have em := drainSlot_emits s h
    rcases hhw with hp | ⟨⟨_, hl0, hc0, _⟩, _⟩
    · rw [(g h b hp).1] at em; simp at em; exact em.2
    · rw [hc0, hl0] at em
      have he : s.txBuf h 0 (0 : Half).toNat = [] := rfl
      rw [he, i] at em
      exact congrArg Prod.snd em

/-! ## The RX ring -/

/-- The shape depends on RCTL, RDH, RDT and the RX descriptors alone. -/
theorem State.RxRing.congr {s t : State} {k : Nat} (h : s.RxRing k)
    (hr : ∀ r, r = .rctl ∨ r = .rdh ∨ r = .rdt → t.reg r = s.reg r) (hd : t.rxd = s.rxd) : t.RxRing k := by
  have h1 := hr .rctl (.inl rfl)
  have h2 := hr .rdh (.inr (.inl rfl))
  have h3 := hr .rdt (.inr (.inr rfl))
  have hx : t.rxDesc = s.rxDesc := by funext i; simp only [State.rxDesc, hd]
  have hy : t.rxDone = s.rxDone := by funext i; simp only [State.rxDone, hx]
  obtain ⟨a, b, c, d, e⟩ := h
  constructor <;> simp only [State.rxCursor, State.rxEnable, h1, h2, h3, hx, hy] at * <;> assumption

/-- ATTACH's ring holds no frame. -/
theorem attachOk_RxRing (s : State) : s.attachOk.RxRing 0 where
  enabled := by simp [State.rxEnable, attachOk_reg]; decide
  count := Nat.zero_le _
  head := by simp [attachOk_reg, State.rxCursor]
  done i hi := by rw [attachOk_rxDone s i hi]; simp
  length i hi h := by rw [attachOk_rxDone s i hi] at h; exact nomatch h

/-- A fill puts one frame more into the ring. -/
theorem State.RxRing.fillSlot {s : State} {k : Nat} (h : s.RxRing k) (frame : Bytes) (draw : RxDraw)
    (hf : frame.length ≤ Config.rxBufSize) (hk : k < Config.rxCap) :
    (s.fillSlot (s.reg .rdh).toNat frame draw).RxRing (k + 1) := by
  obtain ⟨a, b, c, d, e⟩ := h
  have hcl := s.rxCursor_lt
  simp only [Config.rxCap, Config.rxBufSize] at *
  generalize hh : (s.reg .rdh).toNat = h at *
  have hlt := nextRx_lt h
  have hcur : (s.fillSlot h frame draw).rxCursor = s.rxCursor := by unfold State.rxCursor; rw [fillSlot_reg]; rfl
  constructor
  · rw [← a]; unfold State.rxEnable; rw [fillSlot_reg]; rfl
  · simp only [Config.rxCap]; omega
  · rw [fillSlot_reg, if_pos rfl, toNat_ofNat_small, hcur]
    · simp only [nextRx, Config.rxCap]; omega
    · simp at hlt; omega
  · intro i hi
    rw [hcur, fillSlot_rxDone]
    simp only [Config.rxCap] at *
    by_cases hih : i = h
    · rw [if_pos hih]
      exact ⟨fun _ => by omega, fun _ => rfl⟩
    · rw [if_neg hih, d i hi]
      omega
  · intro i hi hdn
    rw [fillSlot_rxDone] at hdn
    rw [fillSlot_rxDesc]
    by_cases hih : i = h
    · rw [if_pos hih, BitVec.toNat_ofNat]; exact Nat.le_trans (Nat.mod_le _ _) hf
    · rw [if_neg hih] at hdn ⊢; exact e i hi hdn

/-- An OK of RECEIVE takes one frame out of the ring. -/
theorem State.RxRing.receiveOk {s : State} {k : Nat} (h : s.RxRing k) (hk : 0 < k) :
    (s.receiveOk s.rxCursor).RxRing (k - 1) := by
  obtain ⟨a, b, c, d, e⟩ := h
  have hcl := s.rxCursor_lt
  simp only [Config.rxCap] at *
  have hcur : (s.receiveOk s.rxCursor).rxCursor = (s.rxCursor + 1) % 128 := by
    unfold State.rxCursor
    rw [receiveOk_reg, if_pos rfl, toNat_ofNat_small]
    · simp [nextRx]
    · simp [nextRx]; omega
  constructor
  · rw [← a]; unfold State.rxEnable; rw [receiveOk_reg]; rfl
  · simp only [Config.rxCap]; omega
  · rw [receiveOk_reg, if_neg (by decide), hcur, c]; simp only [Config.rxCap]; omega
  · intro i hi
    rw [hcur, receiveOk_rxDone]
    simp only [Config.rxCap] at *
    by_cases hih : i = s.rxCursor
    · rw [if_pos hih]
      exact ⟨fun h => (nomatch h), fun h => by omega⟩
    · rw [if_neg hih, d i hi]; omega
  · intro i hi hdn
    rw [receiveOk_rxDone] at hdn
    rw [receiveOk_rxDesc]
    by_cases hih : i = s.rxCursor
    · rw [if_pos hih] at hdn; exact nomatch hdn
    · rw [if_neg hih] at hdn ⊢; exact e i hi hdn

end Sys2Proof.Machine
end

