-- ==== Sys2Proof/Tests/Slice0.lean ====
section
/-! SUPPORT. The model's own tests. Part 1: vectors of 95_test_vectors.md (their numbers are in the comments) and values of
the rules, on small states. Part 2: for every statement with hypotheses, states and operands that meet them. -/

namespace Sys2Proof.Tests

open Sys2Proof Sys2Proof.Machine

/-! ## Helper states -/

/-- Reset, but in mode ATTACHED: every ring byte 0, both engines off, every cursor 0. -/
def attached : State := State.reset.setMode .attached

/-- The launch state of the test platform (R164). -/
def launch : State := State.reset.attachOk

/-- Slot 1 as ATTACH leaves it, the candidate of the first TRANSMIT. -/
def oneFreeSlot : State := (attached.setTx 1 .addr (0x200800 : BusAddr)).setTx 1 .status statusDone

/-- RX as ATTACH leaves it, as far as slot 0 goes. -/
def oneRxSlot : State := ((attached.setRx 0 .addr (0x300000 : BusAddr)).setReg .rdt 128).setReg .rctl Config.rctlInit

/-- The draws of the spec's vectors. -/
def noDraw : RxDraw := ⟨0, 0, 0, 0⟩

/-- TXE on, slot 0 to be drained with this cmd byte and length. -/
def toDrain (cmd : Byte) (len : Half) : State :=
  ((((attached.setReg .tctl Config.tctlInit).setReg .tdt 1).setTx 0 .cmd cmd).setTx 0 .length len).writeTxBuf 0 [1, 2, 3]

/-! ## Part 1: vectors -/

/-- R115: fewer data bytes than an allowed `LEN` is not well formed. -/
theorem test_wellFormed_refuses_short_data :
    (Instr.transmit 3 [1, 2]).wellFormed = false ∧ (Instr.transmit 1517 []).wellFormed = false := by decide

theorem test_wellFormed_accepts :
    Instr.attach.wellFormed = true ∧ (Instr.transmit 3 [1, 2, 3]).wellFormed = true ∧
    (Instr.transmit 1518 []).wellFormed = true ∧ Instr.receive.wellFormed = true := by decide

/-! E1 to E13; the words are R110's fields written out, LEN, RSV and OP from the left. -/

theorem test_decode_attach : decode 0b0000000000000000_000000000000_0001 [] = .ok .attach := by decide

theorem test_decode_transmit :
    decode 0b0000000000000101_000000000000_0010 [1, 2, 10, 4, 5] = .ok (.transmit 5 [1, 2, 10, 4, 5]) ∧
    decode 0b0000000000000000_000000000000_0010 [] = .ok (.transmit 0 []) ∧
    decode 0b0000010111101101_000000000000_0010 [] = .ok (.transmit 1517 []) ∧
    decode 0b1111111111111111_000000000000_0010 [] = .ok (.transmit 65535 []) := by decide

theorem test_decode_receive : decode 0b0000000000000000_000000000000_0011 [] = .ok .receive := by decide

theorem test_decode_illegal :
    decode 0x00000000 [] = .error .illegalOp ∧ decode 0x00010001 [] = .error .lenNotZero ∧
    decode 0x00000011 [] = .error .reservedBits ∧ decode 0xFFFF0012 [] = .error .reservedBits ∧
    decode 0x00020003 [] = .error .lenNotZero ∧ decode 0x80000003 [] = .error .lenNotZero := by decide

/-- E12: OP 4 to 15. -/
theorem test_decode_illegal_ops : ∀ op : BitVec 4, 4 ≤ op.toNat → decode (op.setWidth 32) [] = .error .illegalOp := by decide

theorem test_encode :
    encode .attach = 0x00000001 ∧ encode (.transmit 1518 []) = 0x05EE0002 ∧ encode .receive = 0x00000003 := by decide

theorem test_decodeTableWord :
    decodeTableWord 32 0x00000001 = some .attach ∧ decodeTableWord 32 0x00020002 = some (.transmit 2 [0, 0]) ∧
    decodeTableWord 32 0x00000003 = some .receive ∧ decodeTableWord 32 0x00000010 = none := by decide

/-- The platform of the vectors passes R165's check. -/
theorem test_platform_valid : platformValid Platform.test = true := by decide +kernel

/-- A1: the registers and the first descriptors after ATTACH. -/
theorem test_attach_launch :
    Reg.all.map launch.reg =
      [0x00000000, 0x80080783, 0x04000002, 0x0004010A, 0x0060100A, 0x00100400, 0x00000000, 0x00000800, 0x00000000,
       0x00000080, 0x00100000, 0x00000000, 0x00000400, 0x00000000, 0x00000000, 0x12005452, 0x80005634] ∧
    launch.txd.bytes 0 16 = [0x00, 0x00, 0x20, 0, 0, 0, 0, 0, 0, 0, 0, 0, 0x01, 0, 0, 0] ∧
    launch.rxd.bytes 0 16 = [0x00, 0x00, 0x30, 0, 0, 0, 0, 0, 0, 0, 0, 0, 0x00, 0, 0, 0] := by decide +kernel

/-- A6 and A7: a misaligned ring base, and two buffers at one address. -/
theorem test_attach_refused :
    platformValid { Platform.test with txRingBase := 0x00100008 } = false ∧
    platformValid { Platform.test with rxBufAddr := Vector.replicate 128 0x00200000 } = false := by decide +kernel

/-- T1 and T6: the slot's bytes, the buffer's bytes, the tail. -/
theorem test_transmit_accepted :
    (oneFreeSlot.transmit 5 [1, 2, 10, 4, 5]).txd.bytes 16 16 = [0, 8, 0x20, 0, 0, 0, 0, 0, 5, 0, 0, 9, 0, 0, 0, 0] ∧
    (oneFreeSlot.transmit 2 [1, 2, 3, 4]).txBuf 1 0 4 = [1, 2, 0, 0] ∧
    (oneFreeSlot.transmit 5 [1, 2, 10, 4, 5]).reg .tdt = 1 := by decide +kernel

/-- T4, T5, T7, T8, T11. -/
theorem test_transmit_turned_away :
    (attached.transmit 1518 []).responses = [⟨0x00000001, []⟩] ∧ (attached.transmit 3 [1, 2]).refused = some .hostDataShort ∧
    (attached.transmit 1600 [1]).responses = [⟨0x00000001, []⟩] ∧
    (State.reset.transmit 1518 []).faults.has .notAttached = true ∧
    (attached.transmit 1 [0]).responses = [⟨0x00000002, []⟩] := by decide

/-- V2 and V6: the response, the slot, the cursor; status bits 7:2 stay. -/
theorem test_receive_frame :
    (oneRxSlot.rxeFill [0x11, 0x22, 0x33] noDraw).receive.responses = [⟨0x00030000, [0x11, 0x22, 0x33]⟩] ∧
    (oneRxSlot.rxeFill [0x11, 0x22, 0x33] noDraw).receive.rxd.bytes 0 16 =
      [0x00, 0x00, 0x30, 0, 0, 0, 0, 0, 3, 0, 0, 0, 0, 0, 0, 0] ∧
    (oneRxSlot.rxeFill [1] ⟨0, 0, 0, 0x3F⟩).receive.rxDesc 0 = ⟨0x300000, 1, 0, 0xFC, 0, 0⟩ ∧
    (oneRxSlot.rxeFill [1] noDraw).receive.reg .rdt = 1 := by decide +kernel

/-- V1 and V8. -/
theorem test_receive_turned_away :
    oneRxSlot.receive.responses = [⟨0x00000003, []⟩] ∧ oneRxSlot.receive.reg .rdt = 128 ∧
    State.reset.receive.responses = [⟨0x0000000F, []⟩] := by decide

/-- X4 and X5: a slot with EOP goes out, one without it is kept; the head moves and DD is written. -/
theorem test_drain :
    (toDrain 9 2).txeDrain.txLog = [[1, 2]] ∧ (toDrain 9 0).txeDrain.txLog = [[]] ∧
    (toDrain 8 3).txeDrain.txAccum = [1, 2, 3] ∧ (toDrain 9 2).txeDrain.reg .tdh = 1 ∧
    ((toDrain 9 2).txeDrain.txDesc 0).status = 0x01 := by decide +kernel

/-- X1, X2, and the length check of R195. -/
theorem test_drain_stopped :
    attached.txeDrain.reg .tdh = 0 ∧ attached.txeDrain.txLog = [] ∧ State.reset.txeDrain.reg .tdh = 0 ∧
    (toDrain 9 1519).txeDrain.faults.has .invariantBroken = true := by decide +kernel

/-- Y2: the slot's bytes and its buffer's. -/
theorem test_fill :
    (oneRxSlot.rxeFill [0x11, 0x22, 0x33] noDraw).rxd.bytes 0 16 = [0x00, 0x00, 0x30, 0, 0, 0, 0, 0, 3, 0, 0, 0, 3, 0, 0, 0] ∧
    (oneRxSlot.rxeFill [0x11, 0x22, 0x33] noDraw).rxBuf 0 0 4 = [0x11, 0x22, 0x33, 0] ∧
    (oneRxSlot.rxeFill [0x11, 0x22, 0x33] noDraw).reg .rdh = 1 := by decide +kernel

/-- Y4, Y6, Y7: a done slot and, under `Window`, a head at the tail are not filled. -/
theorem test_fill_stopped :
    (oneRxSlot.setRx 0 .status (3 : Byte)).rxeEnabled = false ∧ oneRxSlot.rxeEnabled = true ∧
    ({ oneRxSlot with platform := { Platform.test with rxAvailPolicy := .window } }.setReg .rdt 0).rxeEnabled = false ∧
    { oneRxSlot with platform := { Platform.test with rxAvailPolicy := .window } }.rxeEnabled = true := by decide +kernel

/-- Q1: decoding comes first, then the mode. -/
theorem test_illegal_word_first :
    hostCommand 0x00000000 [] State.reset = .next (State.reset.fault .illegalCommand) ∧
    (State.reset.fault .illegalCommand).faults.mask = 0b0000010 := ⟨rfl, by decide⟩

/-! The assembler (R127 to R129) and the pumps (L1-6, L1-7). -/

theorem test_assemble :
    (assemble [] ['t', 'r', 'a', 'n', 's', 'm', 'i', 't', ' ', '3', ',', ' ', '[', '0', 'x', 'A', 'A', ',', '7', ',', ' ', '0', ']']).map
      AsmLine.label = some (.host 0x00030002 [0xAA, 7, 0]) ∧
    (assemble [(['p'], [1, 2])] ['t', 'r', 'a', 'n', 's', 'm', 'i', 't', ' ', '2', ',', ' ', '@', 'p']).map
      AsmLine.label = some (.host 0x00020002 [1, 2]) ∧
    (assemble [] ['.', 'w', 'o', 'r', 'd', ' ', '0', 'x', '0', '0', '0', '1', '0', '0', '0', '1']).map
      AsmLine.label = some (.host 0x00010001 []) ∧
    assemble [] ['t', 'x', 'e', '.', 'd', 'r', 'a', 'i', 'n'] = some .txeDrain ∧
    assemble [] ['r', 'x', 'e', '.', 'f', 'i', 'l', 'l', ' ', '[', '1', ']'] = some (.rxeFill [1] noDraw) ∧
    assemble [] ['a', 't', 't', 'a', 'c', 'h', ' ', '1'] = none := by decide +kernel

/-- The model's choice of log entry 18: a `.word` line with a legal TRANSMIT word presents no data. -/
theorem test_word_line : AsmLine.label (.word 0x00030002) = .host 0x00030002 [] := rfl

theorem test_responseText :
    responseText true ⟨0x00020000, [222, 173]⟩ = "-> OK len=2 data=[222, 173]" ∧
    responseText false ⟨0x00000002, []⟩ = "-> RING_FULL" := by decide +kernel

/-- A page whose every byte is 9. -/
def ninesPage : PageBytes := Vector.replicate 4096 9

/-- L1-6: bytes 0 to 3 of the page hold 64, the frame follows, and the page's old bytes after it. -/
theorem test_page :
    (Page.ofFrame 0 ninesPage [5, 6]).bytes.toList.take 8 = [2, 0, 0, 0, 5, 6, 9, 9] ∧
    (Page.ofFrame 0 ninesPage (List.replicate 64 1)).bytes.toList.take 5 = [0x40, 0, 0, 0, 1] ∧
    (Page.ofFrame 3 ninesPage [5, 6]).data = [5, 6] := by decide +kernel

/-- The system around a block, both pumps idle, `NS_ID` = 7. -/
def pumps (s : State) : PumpSystem := ⟨s, 7, .polling, .waiting, 0, []⟩

/-- R263 to R265: the page goes to `NS_ID` with tag `INPUT`, when that process receives. -/
theorem test_input_message :
    ((pumps attached).trySend ⟨1, ninesPage⟩ [3, 7]).sent.map (fun m => (m.dst, m.tag, m.page.id)) = [(7, 10, 1)] ∧
    ((pumps attached).trySend ⟨1, ninesPage⟩ [3]).sent.length = 0 := by decide +kernel

/-- A message of the stack, five bytes to send. -/
def outputMessage : Message := ⟨7, 11, 0, ninesPage.put [5, 0, 0, 0, 1, 2, 10, 4, 5]⟩

/-- L1-7: the addressed message leads to TRANSMIT with its length and data. -/
theorem test_output_pump :
    ((pumps attached).takeMessage outputMessage).output = .transmitting 5 [1, 2, 10, 4, 5] ∧
    ((pumps attached).takeMessage { outputMessage with sender := 8 }).output = .waiting := by decide +kernel

/-! ## Part 2: what the statements assume can be met -/

/-! Facts about the launch state. -/

theorem launch_mode : launch.mode = .attached := (attachOk_rest _).2.2.2.2.1

theorem launch_candidate : launch.txCandidate = 1 := by
  rw [State.txCandidate, launch, attachOk_tdt]
  rfl

theorem launch_free (i : Nat) (h : i < 64) : (launch.txDesc i).status.getLsbD 0 = true := attachOk_txDone _ i h

theorem launch_candidate_free : launch.txDone launch.txCandidate = true := attachOk_txDone _ _ (State.txCandidate_lt _)

theorem launch_tdh : (launch.reg .tdh).toNat = 0 := by simp [launch, attachOk_reg]

theorem launch_tdt : (launch.reg .tdt).toNat = 0 := attachOk_tdt _

theorem launch_rdh : (launch.reg .rdh).toNat = 0 := by simp [launch, attachOk_reg]

theorem launch_rdt : (launch.reg .rdt).toNat = 128 := by simp [launch, attachOk_reg]

theorem launch_tx : launch.TxRing := attachOk_TxRing _

theorem launch_rx : launch.RxRing 0 := attachOk_RxRing _

theorem launch_memory : launch.memoryOk := by
  obtain ⟨h1, h2, h3, h4, _⟩ := attachOk_rest State.reset
  unfold State.memoryOk launch
  rw [h1, h2, h3, h4]
  exact ⟨wf_initTxd _, wf_initRxd _, ⟨rfl, rfl⟩, ⟨rfl, rfl⟩⟩

/-- A step of the machine in a state without labels: every witness for "step answers next" can use it. -/
theorem idle_step (s : State) (h : s.refused = none) (hp : s.pending = []) : step s = .next s := by
  simp [step, nextStep, h, hp]

theorem launch_refused : launch.refused = none := (attachOk_rest State.reset).2.2.2.2.2.2.2.2.1

theorem launch_platform : launch.platform = State.reset.platform := (attachOk_rest State.reset).2.2.2.2.2.2.2.2.2.2.1

theorem launch_idle : step launch = .next launch :=
  idle_step _ launch_refused (attachOk_rest State.reset).2.2.2.2.2.2.2.2.2.1

/-- A step that takes a command's label. -/
theorem command_step (s : State) (w : Word) (data : Bytes) (h : s.refused = none) : ∃ t, step (s.withCommand w data) = .next t := by
  have hr : (s.withCommand w data).refused = none := h
  have hp : (s.withCommand w data).pending = .host w data :: s.pending := rfl
  simp only [step, nextStep, hr, hp, List.head?_cons]
  exact runLabel_next _ _

/-! Rings written out. -/

/-- Slots 0 to 63 pending, TDH = 1, TDT = 0: the full ring of T15. -/
def fullTx : State :=
  { (attached.setReg .tctl Config.tctlInit).setReg .tdh 1 with txd := (List.range 64).map fun i => (16 * i + 11, 9) }

theorem fullTx_ring : fullTx.TxRing where
  enabled := by decide
  head := by decide
  tail := by decide
  window := by unfold State.isDummy; decide +kernel
  atTail := .inl (by decide +kernel)
  others := by decide +kernel
  pending := by decide +kernel
  accum := rfl

/-- Slots 1 to 63 pending and slot 0 the undrained dummy, TDH = 0, TDT = 63: the state before T13's last step. -/
def firstLap : State :=
  { (attached.setReg .tctl Config.tctlInit).setReg .tdt 63 with
    txd := (12, 1) :: (List.range 63).map fun i => (16 * (i + 1) + 11, 9) }

theorem firstLap_ring : firstLap.TxRing where
  enabled := by decide
  head := by decide
  tail := by decide
  window := by unfold State.isDummy; decide +kernel
  atTail := .inl (by decide +kernel)
  others := by decide +kernel
  pending := by decide +kernel
  accum := rfl

/-- All 128 RX slots hold an empty frame, RDH = RDT = 0: Y4 with frames of length 0. -/
def fullRx : State :=
  { attached.setReg .rctl Config.rctlInit with rxd := (List.range 128).map fun i => (16 * i + 12, 3) }

theorem fullRx_ring : fullRx.RxRing 128 where
  enabled := by decide
  count := by decide
  head := by decide
  done := by decide +kernel
  length := by decide +kernel

/-- One frame in slot 127, RDT = 127, RDH = 0: the wrap of V5. -/
def lastRx (len : Half) : State :=
  (((attached.setReg .rctl Config.rctlInit).setReg .rdt 127).setRx 127 .status (3 : Byte)).setRx 127 .length len

/-- The window policy's deadlock (Y7), at slot `i`. -/
def windowDead (i : Word) : State :=
  (({ attached with platform := { Platform.test with rxAvailPolicy := .window } }.setReg .rctl Config.rctlInit).setReg .rdh
    i).setReg .rdt i

/-! Encoding. -/

theorem witness_EncodeDecode :
    decode 0x00000001 [] = .ok .attach ∧ decode 0xFFFF0002 [1] = .ok (.transmit 65535 [1]) ∧
    decode 0x00000003 [] = .ok .receive := by decide

theorem witness_LegalWords :
    (∀ i, decode 0x00000000 [] ≠ .ok i) ∧ (∀ i, decode 0x0000000F [] ≠ .ok i) ∧ (∀ i, decode 0x00000012 [] ≠ .ok i) ∧
    (∀ i, decode 0x00010001 [] ≠ .ok i) ∧
    (∃ r ∈ opcodeTable, ∃ q ∈ opcodeTable, r.accepts 0xFFFF0002 = true ∧ q.accepts 0xFFFF0002 = true) := by
  refine ⟨?_, ?_, ?_, ?_, ⟨"TRANSMIT", 2, 0xFFFF⟩, by decide, ⟨"TRANSMIT", 2, 0xFFFF⟩, by decide, by decide⟩ <;>
    (intro i h; exact nomatch h)

/-! Steps. -/

theorem witness_StepRunsDecodedCommand :
    let s := State.reset.withCommand 0x00010002 [7]
    s.refused = none ∧ s.pending = .host 0x00010002 [7] :: [] ∧ decode 0x00010002 [7] = .ok (.transmit 1 [7]) :=
  ⟨rfl, rfl, by decide⟩

theorem witness_StepRunsOtherLabels :
    State.reset.refused = none ∧ State.reset.pending = [] ∧
    ({ State.reset with pending := [.txeDrain] } : State).pending = .txeDrain :: [] ∧
    ({ State.reset with pending := [.rxeFill [] noDraw] } : State).pending = .rxeFill [] noDraw :: [] ∧
    (State.reset.withCommand 0x00000000 []).pending = .host 0x00000000 [] :: [] ∧
    decode 0x00000000 [] = .error .illegalOp := ⟨rfl, rfl, rfl, rfl, rfl, by decide⟩

theorem witness_OnlyRefusalStops :
    State.reset.refused = none ∧ (State.reset.refuse .platformInvalid).refused = some .platformInvalid := ⟨rfl, rfl⟩

/-! ATTACH. -/

theorem witness_AttachLaunchState :
    platformValid State.reset.platform = true ∧ State.reset.mode = .unattached ∧ State.reset.reg .status = 0x80080783 :=
  ⟨test_platform_valid, rfl, rfl⟩

/-- A2 and A3, with both engines off; the state after A2 is in mode FAILED. -/
theorem witness_AttachStatusMismatch :
    ∀ d : Word, d = 0x00000000 ∨ d = 0x80080782 →
      let s := State.resetWith Platform.test d
      platformValid s.platform = true ∧ s.mode = .unattached ∧ s.reg .status ≠ 0x80080783 ∧
      (s.reg .tctl).getLsbD 1 = false ∧ (s.reg .rctl).getLsbD 1 = false ∧ (s.setMode .failed).mode = .failed := by
  rintro d (rfl | rfl) <;> exact ⟨test_platform_valid, rfl, by decide, by decide, by decide, rfl⟩

theorem witness_AttachOnlyOnce :
    platformValid attached.platform = true ∧ attached.mode = .attached ∧
    platformValid (State.reset.setMode .failed).platform = true ∧ (State.reset.setMode .failed).mode = .failed :=
  ⟨test_platform_valid, rfl, test_platform_valid, rfl⟩

/-- A6, A7 and a misaligned RX ring. -/
theorem witness_AttachRefusesInvalidPlatform :
    (0x00100008 : BusAddr).toNat % 16 ≠ 0 ∧ (0x0010040F : BusAddr).toNat % 16 ≠ 0 ∧
    ¬(platformRegions { Platform.test with rxBufAddr := Vector.replicate 128 0x00200000 }).Pairwise (fun r q =>
      ∀ j k : Nat, j < r.size → k < q.size → r.base + BitVec.ofNat 64 j ≠ q.base + BitVec.ofNat 64 k) := by
  refine ⟨by decide, by decide, fun h => ?_⟩
  have hl : (platformRegions { Platform.test with rxBufAddr := Vector.replicate 128 0x00200000 }).length = 194 := by
    simp [platformRegions]
  refine List.pairwise_iff_getElem.1 h 66 67 (by omega) (by omega) (by decide) 0 0 ?_ ?_ ?_ <;> simp [platformRegions]

/-- Draws with every register, the EN bits too, and some bytes other than 0. -/
def otherDraw : ResetDraw :=
  ⟨⟨1, 2, 0xFFFFFFFF, 0xFFFFFFFF, 5, 6, 7, 8, 9, 10, 11, 12, 13, 14, 15, 16, 17⟩, [(0, 1)], [(12, 3)], [], [(5, 5)]⟩

theorem reset_off : State.reset.enginesOff := ⟨by decide, by decide⟩

theorem otherDraw_off : (State.resetFrom Platform.test Config.statusSignature otherDraw).enginesOff := ⟨by decide, by decide⟩

/-- Two resets with other registers and memory, whatever is scheduled; and both ways to answer, a next state and a
refusal. -/
theorem witness_ResetDrawsNeverRead :
    (∀ ls : List Label,
      let s : State := { State.reset with pending := ls }
      let s' : State := { State.resetFrom Platform.test Config.statusSignature otherDraw with pending := ls }
      s.AgreesButDraws s' ∧ s.mode ≠ .attached ∧ s.enginesOff ∧ s'.enginesOff ∧ s'.reg .ctrl = 1) ∧
    (∃ t, step { State.reset with pending := [.txeDrain] } = .next t) ∧
    step (State.reset.refuse .platformInvalid) = .refused (.afterRefusal .platformInvalid) := by
  refine ⟨fun ls => ⟨⟨rfl, rfl, rfl, rfl, rfl, rfl, rfl, rfl, rfl⟩, ?_, reset_off, otherDraw_off, rfl⟩, ⟨_, rfl⟩, rfl⟩
  exact fun h => nomatch (show Mode.unattached = .attached from h)

/-! TRANSMIT. -/

/-- Lengths 0 and 1517, and the head a slot of the ring. -/
theorem witness_TransmitAccepts :
    ∀ len : Half, len = 0 ∨ len = 1517 →
      let c := ((launch.reg .tdt).toNat + 1) % 64
      launch.mode = .attached ∧ len.toNat < 1518 ∧ len.toNat ≤ (List.replicate 1517 (0xFF : Byte)).length ∧
      (launch.txDesc c).status.getLsbD 0 = true ∧ (launch.reg .tdh).toNat < 64 := by
  rintro len (rfl | rfl) <;>
    exact ⟨launch_mode, by decide, by rw [List.length_replicate]; decide, launch_free _ (Nat.mod_lt _ (by decide)),
      by rw [launch_tdh]; decide⟩

theorem witness_TransmitFrame :
    (∃ t, exec (.transmit 5 [1, 2, 10, 4, 5]) oneFreeSlot = .next t) ∧
    ∃ t, ∃ r : Response, exec (.transmit 1518 []) attached = .next t ∧ t.responses = attached.responses ++ [r] ∧ r.code ≠ 0 :=
  ⟨⟨_, rfl⟩, _, ⟨responseWord .packetTooLarge 0, []⟩, rfl, rfl, by decide⟩

theorem witness_TransmitTooLarge :
    launch.mode = .attached ∧ 1518 ≤ (1518 : Half).toNat ∧ 1518 ≤ (65535 : Half).toNat := ⟨launch_mode, by decide, by decide⟩

/-- Lengths 0 and 1517 on the full ring. -/
theorem witness_TransmitRingFull :
    fullTx.mode = .attached ∧ (1517 : Half).toNat < 1518 ∧ (0 : Half).toNat ≤ ([] : Bytes).length ∧
    (1517 : Half).toNat ≤ (List.replicate 1517 (0 : Byte)).length ∧
    (fullTx.txDesc (((fullTx.reg .tdt).toNat + 1) % 64)).status.getLsbD 0 = false :=
  ⟨rfl, by decide, by decide, by rw [List.length_replicate]; decide, by decide +kernel⟩

theorem witness_TransmitCollapse :
    let c := ((firstLap.reg .tdt).toNat + 1) % 64
    firstLap.mode = .attached ∧ (1 : Half).toNat < 1518 ∧ (1 : Half).toNat ≤ ([0x40] : Bytes).length ∧
    (firstLap.txDesc c).status.getLsbD 0 = true ∧ c = (firstLap.reg .tdh).toNat :=
  ⟨rfl, by decide, by decide, by decide +kernel, by decide⟩

/-- T5, and the longest allowed length without data. -/
theorem witness_TransmitShortData :
    launch.mode = .attached ∧ (3 : Half).toNat < 1518 ∧ ([1, 2] : Bytes).length < (3 : Half).toNat ∧
    (1517 : Half).toNat < 1518 ∧ ([] : Bytes).length < (1517 : Half).toNat :=
  ⟨launch_mode, by decide, by decide, by decide, by decide⟩

theorem witness_TransferNeedsAttach :
    Instr.transmit 1 [0] ≠ .attach ∧ Instr.receive ≠ .attach ∧ State.reset.mode = .unattached ∧
    (State.reset.setMode .failed).mode = .failed := by decide

/-! RECEIVE. -/

/-- A frame of length 0 and one of 2048, at slot 127. -/
theorem witness_ReceiveDelivers :
    ∀ len : Half, len = 0 ∨ len = 2048 →
      let c := ((lastRx len).reg .rdt).toNat % 128
      (lastRx len).mode = .attached ∧ ((lastRx len).rxDesc c).status.getLsbD 0 = true ∧
      ((lastRx len).rxDesc c).length.toNat ≤ 2048 := by
  rintro len (rfl | rfl) <;> exact ⟨rfl, by decide +kernel, by decide +kernel⟩

theorem witness_ReceiveEmpty :
    attached.mode = .attached ∧ (attached.rxDesc ((attached.reg .rdt).toNat % 128)).status.getLsbD 0 = false := by decide

theorem witness_ReceiveTooLong :
    let c := ((lastRx 2049).reg .rdt).toNat % 128
    (lastRx 2049).mode = .attached ∧ ((lastRx 2049).rxDesc c).status.getLsbD 0 = true ∧
    2048 < ((lastRx 2049).rxDesc c).length.toNat := by decide +kernel

theorem witness_ReceiveFrame : ∃ t, exec .receive (lastRx 1) = .next t := ⟨_, rfl⟩

/-! The engines. -/

/-- With EOP and without, lengths 0 and 1518. -/
theorem witness_DrainSendsSlot :
    ∀ len : Half, len = 0 ∨ len = 1518 → ∀ cmd : Byte, cmd = 0x09 ∨ cmd = 0x08 →
      let s := toDrain cmd len
      let d := s.txDesc (s.reg .tdh).toNat
      (s.reg .tctl).getLsbD 1 = true ∧ s.reg .tdh ≠ s.reg .tdt ∧ (s.reg .tdh).toNat < 64 ∧ d.length.toNat ≤ 1518 ∧
      d.cmd.getLsbD 0 = decide (cmd = 0x09) := by
  rintro len (rfl | rfl) cmd (rfl | rfl) <;>
    exact ⟨by decide, by decide, by decide, by decide +kernel, by decide +kernel⟩

theorem witness_DrainOtherwise :
    (attached.reg .tctl).getLsbD 1 = false ∧ launch.reg .tdh = launch.reg .tdt ∧
    ((toDrain 9 1519).reg .tctl).getLsbD 1 = true ∧ (toDrain 9 1519).reg .tdh ≠ (toDrain 9 1519).reg .tdt ∧
    1518 < ((toDrain 9 1519).txDesc ((toDrain 9 1519).reg .tdh).toNat).length.toNat ∧
    (((toDrain 9 1).setReg .tdh 64).reg .tctl).getLsbD 1 = true ∧
    ((toDrain 9 1).setReg .tdh 64).reg .tdh ≠ ((toDrain 9 1).setReg .tdh 64).reg .tdt ∧
    64 ≤ (((toDrain 9 1).setReg .tdh 64).reg .tdh).toNat :=
  ⟨by decide, by simp [launch, attachOk_reg], by decide, by decide, by decide +kernel, by decide, by decide, by decide⟩

/-- Slots 0 and 127, either policy, frames of 0 and of 2048 bytes. -/
theorem witness_FillDeposits :
    ([] : Bytes).length ≤ 2048 ∧ (List.replicate 2048 (0x5A : Byte)).length ≤ 2048 ∧
    ∀ i : Word, i = 0 ∨ i = 127 →
      let s := (windowDead i).setReg .rdt 128
      let s' := (attached.setReg .rctl Config.rctlInit).setReg .rdh i
      (s.reg .rctl).getLsbD 1 = true ∧ (s.reg .rdh).toNat < 128 ∧ (s.rxDesc (s.reg .rdh).toNat).status.getLsbD 0 = false ∧
      s.platform.rxAvailPolicy = .window ∧ s.reg .rdh ≠ s.reg .rdt ∧
      (s'.reg .rctl).getLsbD 1 = true ∧ (s'.reg .rdh).toNat < 128 ∧
      (s'.rxDesc (s'.reg .rdh).toNat).status.getLsbD 0 = false ∧ s'.platform.rxAvailPolicy ≠ .window := by
  refine ⟨by decide, by rw [List.length_replicate], ?_⟩
  rintro i (rfl | rfl) <;> decide

theorem witness_FrameLostWithoutTrace :
    2048 < (List.replicate 2049 (0 : Byte)).length ∧ (attached.reg .rctl).getLsbD 1 = false ∧
    (fullRx.reg .rdh).toNat < 128 ∧ (fullRx.rxDesc (fullRx.reg .rdh).toNat).status.getLsbD 0 = true ∧
    ((windowDead 127).reg .rdh).toNat < 128 ∧ (windowDead 127).platform.rxAvailPolicy = .window ∧
    (windowDead 127).reg .rdh = (windowDead 127).reg .rdt ∧
    ([] : Bytes).length ≤ 2048 ∧ ((fullRx.setReg .rdh 128).reg .rctl).getLsbD 1 = true ∧
    128 ≤ ((fullRx.setReg .rdh 128).reg .rdh).toNat :=
  ⟨by rw [List.length_replicate]; decide, by decide, by decide, by decide +kernel, by decide, rfl, by decide, by decide,
    by decide, by decide⟩

/-! Memory and registers. -/

theorem witness_StepKeepsMemory :
    (launch.withCommand 0x00000003 []).memoryOk ∧ ∃ t, step (launch.withCommand 0x00000003 []) = .next t :=
  ⟨launch_memory, command_step _ _ _ launch_refused⟩

theorem witness_CanonicalMemoriesAgree :
    Memory.wf [(3, 7), (8, 1)] = true ∧ ∀ a, Memory.read [(3, 7), (8, 1)] a = Memory.read [(3, 7), (8, 1)] a :=
  ⟨by decide, fun _ => rfl⟩

/-- The last bytes of a space, and one byte past it. -/
theorem witness_MemoryPrimitives :
    Space.txd ≠ .reg ∧ 1022 + ([1, 2] : Bytes).length ≤ Space.txd.size ∧ Space.txd.size < 1023 + ([1, 2] : Bytes).length ∧
    262143 + ([1] : Bytes).length ≤ Space.rxb.size ∧ Space.rxb ≠ Space.txb := by decide

theorem witness_RegisterHoldsLastWrite : Reg.tdt ≠ .status ∧ Reg.tdh ≠ .tdt := by decide

theorem witness_DescriptorBytes : 0 < 64 ∧ 63 < 64 ∧ 0 < 128 ∧ 127 < 128 := by decide

/-! Invariants. -/

theorem witness_EnginesOffUntilAttached :
    (State.reset.mode ≠ .attached → State.reset.txEnable = false ∧ State.reset.rxEnable = false) ∧
    step State.reset = .next State.reset ∧ State.reset.mode ≠ .attached :=
  ⟨fun _ => by decide, idle_step _ rfl rfl, by decide⟩

theorem witness_CursorsStayInRange : launch.mode = .attached ∧ launch.cursorsInRange ∧ step launch = .next launch :=
  ⟨launch_mode, ⟨by rw [launch_tdh]; decide, by rw [launch_tdt]; decide, by rw [launch_rdh]; decide, by rw [launch_rdt]⟩,
    launch_idle⟩

theorem witness_AddressesStayPaired : launch.mode = .attached ∧ launch.addressesPaired ∧ step launch = .next launch := by
  refine ⟨launch_mode, ⟨fun i h => ?_, fun i h => ?_⟩, launch_idle⟩
  · rw [launch_platform, launch, attachOk_txDesc _ i h]; rfl
  · rw [launch_platform, launch, attachOk_rxDesc _ i h]; rfl

theorem witness_StepKeepsTxRing :
    (fullTx.mode = .attached ∧ fullTx.faults.has .txWindowCollapse = false ∧ fullTx.TxRing) ∧
    (launch.TxRing ∧ step launch = .next launch ∧ launch.mode = .attached) ∧
    ∃ t, step { fullTx with pending := [.txeDrain] } = .next t :=
  ⟨⟨rfl, by decide, fullTx_ring⟩, ⟨launch_tx, launch_idle, launch_mode⟩, _, rfl⟩

theorem witness_StepKeepsRxRing :
    (launch.RxRing 0 ∧ step launch = .next launch ∧ launch.mode = .attached) ∧ fullRx.RxRing 128 ∧
    ∃ t, step { fullRx with pending := [.host 0x00000003 []] } = .next t :=
  ⟨⟨launch_rx, launch_idle, launch_mode⟩, fullRx_ring, _, rfl⟩

theorem witness_FaultsAreSticky :
    let s := State.reset.fault .illegalCommand
    step s = .next s ∧ s.faults.has .illegalCommand = true := ⟨idle_step _ rfl rfl, by decide⟩

/-- A step that leaves UNATTACHED for ATTACHED, and one for FAILED. -/
theorem witness_ModeTransitions :
    (∃ t, step (State.reset.withCommand 1 []) = .next t ∧ t.mode ≠ (State.reset.withCommand 1 []).mode) ∧
    ∃ t, step ((State.resetWith Platform.test 0).withCommand 1 []) = .next t ∧ t.mode = .failed := by
  have hd : decode 1 [] = .ok .attach := by decide
  refine ⟨⟨State.reset.attachOk, ?_, by rw [(attachOk_rest _).2.2.2.2.1]; decide⟩,
    ((State.resetWith Platform.test 0).setMode .failed).result .deviceAttachFailure, ?_, rfl⟩
  · show runLabel (.host 1 []) State.reset = _
    simp only [runLabel, hostCommand, hd, exec, execAttach, State.attach]
    rw [show State.reset.platform = Platform.test from rfl, test_platform_valid]
    rfl
  · show runLabel (.host 1 []) (State.resetWith Platform.test 0) = _
    simp only [runLabel, hostCommand, hd, exec, execAttach, State.attach]
    rw [show (State.resetWith Platform.test 0).platform = Platform.test from rfl, test_platform_valid]
    rfl

/-! The TX protocol. -/

/-- On the full ring and on the launch state's. -/
theorem witness_RingFullExactly :
    fullTx.mode = .attached ∧ fullTx.TxRing ∧ launch.mode = .attached ∧ launch.TxRing ∧ (1517 : Half).toNat < 1518 ∧
    (1517 : Half).toNat ≤ (List.replicate 1517 (0 : Byte)).length :=
  ⟨rfl, fullTx_ring, launch_mode, launch_tx, by decide, by rw [List.length_replicate]; decide⟩

theorem witness_RetryAfterDrainSucceeds :
    fullTx.mode = .attached ∧ fullTx.TxRing ∧ (1 : Half).toNat < 1518 ∧ (1 : Half).toNat ≤ ([0x41] : Bytes).length ∧
    fullTx.txDone fullTx.txCandidate = false :=
  ⟨rfl, fullTx_ring, by decide, by decide, by decide +kernel⟩

/-- The TX ring in its shape, its head slot pending: nothing TRANSMIT or TXE does from here collapses the window. -/
structure HeadPending (s : State) : Prop where
  ring : s.TxRing
  head : s.txDone (s.reg .tdh).toNat = false
  mode : s.mode = .attached
  refused : s.refused = none
  faults : s.faults.has .txWindowCollapse = false

theorem HeadPending.transmit {s : State} (h : HeadPending s) : HeadPending (s.transmit 1 [7]) := by
  have keep : ∀ t : State, t.regs = s.regs → t.txd = s.txd → t.txAccum = s.txAccum → t.mode = s.mode → t.refused = s.refused →
      t.faults = s.faults → HeadPending t := fun t h1 h2 h3 h4 h5 h6 =>
    ⟨h.ring.congr (fun r _ => by rw [State.reg, h1]; rfl) h2 h3,
      by simp only [State.txDone, State.txDesc, State.reg, h1, h2]; exact h.head,
      h4.trans h.mode, h5.trans h.refused, by rw [h6]; exact h.faults⟩
  rcases transmit_cases s 1 [7] with ⟨hm, _⟩ | ⟨hm, _⟩ | ⟨_, hl, _⟩ | ⟨_, _, hd, _⟩ | ⟨_, _, _, _, e⟩ |
    ⟨_, _, _, hdd, hc, _⟩ | ⟨_, hl, _, _, hc, e⟩
  · exact nomatch h.mode.symm.trans hm
  · exact nomatch h.mode.symm.trans hm
  · exact absurd hl (by decide)
  · exact absurd hd (by decide)
  · rw [e]
    exact keep _ rfl rfl rfl rfl rfl rfl
  · rw [of_decide_eq_true hc, h.head] at hdd
    exact nomatch hdd
  · have hne : s.txCandidate ≠ (s.reg .tdh).toNat := of_decide_eq_false hc
    obtain ⟨_, _, h3, _, _, h6, h7, _⟩ := transmitOk_rest s 1 [7]
    rw [e]
    refine ⟨h.ring.transmitOk 1 [7] hl hne, ?_, h3.trans h.mode, h7.trans h.refused, by rw [h6]; exact h.faults⟩
    rw [transmitOk_reg, if_neg (by decide), transmitOk_txDone, if_neg hne.symm]
    exact h.head

theorem HeadPending.drain {s : State} (h : HeadPending s) : HeadPending s.txeDrain := by
  rcases txeDrain_cases s with ⟨_, e⟩ | ⟨_, _, e⟩ | ⟨he, hlt, _, e⟩ <;> rw [e]
  · exact h
  · exact ⟨h.ring.congr (fun _ _ => rfl) rfl rfl, h.head, h.mode, h.refused, by simpa [FaultSet.has_add] using h.faults⟩
  · have hne : s.reg .tdh ≠ s.reg .tdt := by
      rw [State.txeEnabled, Bool.and_eq_true] at he
      simpa using he.2
    have hr := h.ring.drainSlot hne
    obtain ⟨_, _, _, h1, h2, h3, _⟩ := drainSlot_rest s (s.reg .tdh).toNat
    refine ⟨hr, ?_, h1.trans h.mode, h3.trans h.refused, by rw [h2]; exact h.faults⟩
    have h64 := hr.head
    have hn : (BitVec.ofNat 32 (nextTx (s.reg .tdh).toNat)).toNat = ((s.reg .tdh).toNat + 1) % 64 :=
      toNat_ofNat_small _ (Nat.lt_trans (nextTx_lt _) (by decide))
    have ht := h.ring.tail
    simp only [Config.txCap] at ht hlt
    rw [drainSlot_reg, if_pos rfl, hn, drainSlot_txDone, if_neg (by omega)]
    by_cases hw : ((s.reg .tdh).toNat + 1) % 64 = (s.reg .tdt).toNat
    · rw [hw]
      exact h.ring.atTail.resolve_right fun hd => hne hd.2.symm
    · refine (h.ring.window (((s.reg .tdh).toNat + 1) % 64) (Nat.mod_lt _ (by decide)) ?_).resolve_right fun hd => by
        have := hd.2
        omega
      have : (s.reg .tdh).toNat ≠ (s.reg .tdt).toNat := fun hh => hne (BitVec.eq_of_toNat_eq hh)
      simp only [inWindow, Config.txCap, decide_eq_true_eq]
      omega

/-- HOST's retry of one packet. -/
def retry : Label := .host (encode (.transmit 1 [7])) [7]

/-- From the full ring, HOST retries its packet and TXE steps where it is enabled, in turn. -/
def retryRun : Nat → State
  | 0 => fullTx
  | n + 1 => if n % 2 = 0 then (retryRun n).transmit 1 [7] else (retryRun n).txeDrain

/-- The labels of that run. -/
def retryLabel (n : Nat) : Option Label :=
  if n % 2 = 0 then some retry else if (retryRun n).txeEnabled then some .txeDrain else none

theorem retryRun_pending (n : Nat) : HeadPending (retryRun n) := by
  induction n with
  | zero => exact ⟨fullTx_ring, by decide +kernel, rfl, rfl, by decide⟩
  | succ n ih =>
    rw [retryRun]
    split
    · exact ih.transmit
    · exact ih.drain

/-- A run that meets the hypotheses of both clauses. -/
theorem witness_FairRetrySucceeds :
    IsRun retryRun retryLabel ∧ TxeFair retryRun retryLabel ∧ (retryRun 0).mode = .attached ∧ (retryRun 0).TxRing ∧
    (∀ n, (retryRun n).faults.has .txWindowCollapse = false) ∧ (1 : Half).toNat < 1518 ∧
    (1 : Half).toNat ≤ ([7] : Bytes).length ∧
    (∀ k, ∃ m, k ≤ m ∧ retryLabel m = some (.host (encode (.transmit 1 [7])) [7])) ∧
    ∀ m l, retryLabel m = some l → l.accepted (retryRun m) = true → l = .host (encode (.transmit 1 [7])) [7] := by
  refine ⟨fun n => ?_, fun n h => ⟨2 * n + 1, by omega, ?_⟩, rfl, fullTx_ring, fun n => (retryRun_pending n).faults, by decide,
    by decide, fun k => ⟨2 * k, by omega, if_pos (by omega)⟩, fun m l hl ha => ?_⟩
  · by_cases hn : n % 2 = 0
    · rw [retryLabel, if_pos hn]
      refine ⟨(retryRun_pending n).refused, rfl, ?_⟩
      rw [retryRun, if_pos hn]
      rfl
    · rw [retryLabel, if_neg hn]
      cases he : (retryRun n).txeEnabled
      · show retryRun (n + 1) = retryRun n
        rw [retryRun, if_neg hn, State.txeDrain, he]
        rfl
      · refine ⟨(retryRun_pending n).refused, he, ?_⟩
        rw [retryRun, if_neg hn]
        rfl
  · rw [retryLabel, if_neg (by omega), if_pos (h _ (by omega))]
  · rw [retryLabel] at hl
    split at hl
    · exact (Option.some.inj hl).symm
    · split at hl
      · rw [← Option.some.inj hl] at ha
        exact nomatch ha
      · exact nomatch hl

/-- An accepted TRANSMIT, one that collapses the window, one turned away, and a drain. -/
theorem witness_TxKeepsOrder :
    (let s := launch.withCommand (encode (.transmit 5 [1, 2, 10, 4, 5])) [1, 2, 10, 4, 5]
     s.mode = .attached ∧ s.TxRing ∧ (∃ t, step s = .next t) ∧ (5 : Half).toNat < 1518 ∧
     (5 : Half).toNat ≤ ([1, 2, 10, 4, 5] : Bytes).length ∧ s.txDone s.txCandidate = true ∧
     s.txCandidate ≠ (s.reg .tdh).toNat) ∧
    (firstLap.mode = .attached ∧ firstLap.TxRing ∧ firstLap.txDone firstLap.txCandidate = true ∧
      firstLap.txCandidate = (firstLap.reg .tdh).toNat) ∧
    fullTx.mode = .attached ∧ fullTx.TxRing ∧ fullTx.txDone fullTx.txCandidate = false ∧ fullTx.txeEnabled = true ∧
    ∃ t, step { fullTx with pending := [.txeDrain] } = .next t := by
  refine ⟨⟨launch_mode, launch_tx.congr (fun _ _ => rfl) rfl rfl, command_step _ _ _ launch_refused, by decide, by decide,
    launch_candidate_free, ?_⟩, ⟨rfl, firstLap_ring, by decide +kernel, by decide⟩,
    rfl, fullTx_ring, by decide +kernel, by decide, _, rfl⟩
  · show launch.txCandidate ≠ (launch.reg .tdh).toNat
    rw [launch_candidate, launch_tdh]
    decide

theorem witness_TailCountsAccepted :
    platformValid State.reset.platform = true ∧ State.reset.mode = .unattached ∧ State.reset.reg .status = 0x80080783 :=
  witness_AttachLaunchState

theorem witness_OneSlotLag :
    launch.mode = .attached ∧ (5 : Half).toNat < 1518 ∧ (5 : Half).toNat ≤ ([1, 2, 10, 4, 5] : Bytes).length ∧
    launch.txDone launch.txCandidate = true :=
  ⟨launch_mode, by decide, by decide, launch_candidate_free⟩

/-- T13's last step, and its state afterwards. -/
theorem witness_CollapseIsDeadlock :
    (firstLap.mode = .attached ∧ firstLap.TxRing ∧ (1 : Half).toNat < 1518 ∧ (1 : Half).toNat ≤ ([0x40] : Bytes).length ∧
      firstLap.txDone firstLap.txCandidate = true ∧ firstLap.txCandidate = (firstLap.reg .tdh).toNat) ∧
    attached.txDead ∧ step attached = .next attached ∧
    ∃ t, step { attached with pending := [.txeDrain] } = .next t :=
  ⟨⟨rfl, firstLap_ring, by decide, by decide, by decide +kernel, by decide⟩, ⟨rfl, by decide +kernel, rfl⟩,
    idle_step _ rfl rfl, _, rfl⟩

/-! The RX protocol. -/

/-- Rings of 0, 1 and 128 frames. -/
theorem witness_RxIsFifo :
    (launch.RxRing 0 ∧ launch.platform.rxAvailPolicy = .doneBit ∧ launch.mode = .attached) ∧
    (launch.fillSlot (launch.reg .rdh).toNat [1] noDraw).RxRing 1 ∧
    (fullRx.RxRing 128 ∧ fullRx.platform.rxAvailPolicy = .doneBit ∧ fullRx.mode = .attached) := by
  refine ⟨⟨launch_rx, ?_, launch_mode⟩, launch_rx.fillSlot [1] noDraw (by decide) (by decide), fullRx_ring, rfl, rfl⟩
  rw [launch_platform]
  rfl

theorem witness_WindowDeadlock :
    ∀ i : Word, i = 0 ∨ i = 127 →
      (windowDead i).platform.rxAvailPolicy = .window ∧ (windowDead i).mode = .attached ∧
      (windowDead i).reg .rdh = (windowDead i).reg .rdt ∧ ((windowDead i).reg .rdh).toNat < 128 ∧
      (windowDead i).rxDone ((windowDead i).reg .rdh).toNat = false ∧ step (windowDead i) = .next (windowDead i) := by
  rintro i (rfl | rfl) <;> exact ⟨rfl, rfl, by decide, by decide, by decide, idle_step _ rfl rfl⟩

/-! The pumps. -/

theorem witness_OutputPumpDropsMisrouted :
    (pumps attached).dra.refused = none ∧ { outputMessage with sender := 8 }.sender ≠ (pumps attached).nsId ∧
    { outputMessage with tag := 10 }.tag ≠ 11 ∧
    { pumps attached with output := .transmitting 5 [1, 2, 10, 4, 5] }.output = .transmitting 5 [1, 2, 10, 4, 5] :=
  ⟨rfl, by decide, by decide, rfl⟩

/-- A waiting pump with a message for it, one transmitting on a full ring, and one with a packet that is too large and not
whole. -/
theorem witness_OutputPumpRetries :
    (pumps fullTx).dra.refused = none ∧ (pumps fullTx).output = .waiting ∧ outputMessage.sender = (pumps fullTx).nsId ∧
    outputMessage.tag = 11 ∧
    { pumps fullTx with output := .transmitting 5 [1, 2, 10, 4, 5] }.output = .transmitting 5 [1, 2, 10, 4, 5] ∧
    (5 : Half).toNat ≤ ([1, 2, 10, 4, 5] : Bytes).length ∧
    { pumps fullTx with output := .transmitting 65535 [1] }.output = .transmitting 65535 [1] ∧ 1518 ≤ (65535 : Half).toNat :=
  ⟨rfl, rfl, rfl, rfl, rfl, by decide, rfl, by decide⟩

/-- An empty ring, a ring with a frame, and a page that waits, with the stack receiving and not. -/
theorem witness_InputPumpHoldsOneFrame :
    (pumps launch).dra.refused = none ∧ (pumps launch).input = .polling ∧
    (∃ t, ∃ r : Response, exec .receive (pumps attached).dra = .next t ∧
      t.responses = (pumps attached).dra.responses ++ [r] ∧ r.code = 3) ∧
    (∃ t, ∃ r : Response, exec .receive (pumps (lastRx 2)).dra = .next t ∧
      t.responses = (pumps (lastRx 2)).dra.responses ++ [r] ∧ r.code = 0) ∧
    { pumps launch with input := .sending ⟨0, ninesPage⟩ }.input = .sending ⟨0, ninesPage⟩ ∧
    (pumps launch).nsId ∉ [3] ∧ (pumps launch).nsId ∈ [3, 7] :=
  ⟨launch_refused, rfl, ⟨_, ⟨0x00000003, []⟩, rfl, by decide, by decide⟩,
    ⟨_, ⟨0x00020000, [0, 0]⟩, rfl, by decide +kernel, by decide⟩, rfl, by decide, by decide⟩

theorem witness_PseudoInstructionLoops :
    launch.refused = none ∧ (5 : Half).toNat ≤ ([1, 2, 10, 4, 5] : Bytes).length ∧ 1518 ≤ (1518 : Half).toNat :=
  ⟨launch_refused, by decide, by decide⟩

/-! The two sides. -/

theorem witness_SidesLeaveEachOther :
    (∃ t, exec (.transmit 1 [0]) launch = .next t) ∧ (∃ t, exec .receive launch = .next t) ∧
    (∃ t, runLabel .txeDrain fullTx = .next t) ∧ ∀ data, Label.txeDrain ≠ .host (encode .attach) data :=
  ⟨⟨_, rfl⟩, ⟨_, rfl⟩, ⟨_, rfl⟩, fun _ h => nomatch h⟩

end Sys2Proof.Tests
end

section
/-! The platform check and the bus addresses it speaks of (R11, R87, R165): `platformValid` as a proposition on the ring
bases and the address ranges of `platformRegions`. -/

namespace Sys2Proof.Machine

/-! ## Two regions -/

/-- No byte of `r` and no byte of `q` stand at one bus address. Bus addresses wrap (log entry 6). -/
def Region.Apart (r q : Region) : Prop :=
  ∀ j k : Nat, j < r.size → k < q.size → r.base + BitVec.ofNat 64 j ≠ q.base + BitVec.ofNat 64 k

/-- Where `a + j` and `b + k` are one bus address and `k ≤ j`, the base `b` lies at most `j - k` above `a`, whether or not
the sums wrap. -/
theorem toNat_sub_le_of_add_ofNat_eq {a b : BusAddr} {j k : Nat} (hkj : k ≤ j)
    (h : a + BitVec.ofNat 64 j = b + BitVec.ofNat 64 k) : (b - a).toNat ≤ j - k := by
  obtain ⟨d, rfl⟩ := Nat.exists_eq_add_of_le hkj
  have hdiff : b - a = BitVec.ofNat 64 d := by
    rw [BitVec.ofNat_add] at h
    grind
  rw [hdiff, Nat.add_sub_cancel_left]
  exact Nat.mod_le _ _

theorem add_ofNat_toNat_sub (a b : BusAddr) : a + BitVec.ofNat 64 (b - a).toNat = b := by
  rw [BitVec.ofNat_toNat, BitVec.setWidth_eq, BitVec.add_comm, BitVec.sub_add_cancel]

theorem Region.overlaps_iff (r q : Region) :
    r.overlaps q = true ↔ (q.base - r.base).toNat < r.size ∨ (r.base - q.base).toNat < q.size := by
  simp only [Region.overlaps, Bool.or_eq_true, decide_eq_true_eq]

/-- The overlap test is exact on regions that hold at least one byte. A shared address puts the base reached with the
smaller offset inside the other region; where the test succeeds, that base is itself a shared address. -/
theorem Region.overlaps_eq_false_iff_apart {r q : Region} (hr : 0 < r.size) (hq : 0 < q.size) :
    r.overlaps q = false ↔ r.Apart q := by
  rw [← Bool.not_eq_true, Region.overlaps_iff]
  constructor
  · intro hno j k hj hk hshared
    rcases Nat.le_total k j with hkj | hjk
    · have := toNat_sub_le_of_add_ofNat_eq hkj hshared
      omega
    · have := toNat_sub_le_of_add_ofNat_eq hjk hshared.symm
      omega
  · rintro hapart (hin | hin)
    · exact hapart _ 0 hin hq ((add_ofNat_toNat_sub ..).trans (BitVec.add_zero _).symm)
    · exact hapart 0 _ hr hin ((BitVec.add_zero _).trans (add_ofNat_toNat_sub ..).symm)

/-! ## The regions of a platform -/

theorem disjointRegions_iff_pairwise (rs : List Region) :
    disjointRegions rs = true ↔ rs.Pairwise (fun r q => r.overlaps q = false) := by
  induction rs with
  | nil => simp [disjointRegions]
  | cons r rs ih => simp [disjointRegions, ih]

/-- No ring and no buffer is empty (R82, R83). -/
theorem size_pos_of_mem_platformRegions {p : Platform} {r : Region} (h : r ∈ platformRegions p) : 0 < r.size := by
  simp only [platformRegions, List.mem_append, List.mem_map, List.mem_cons, List.not_mem_nil, or_false] at h
  obtain ((rfl | rfl) | ⟨_, _, rfl⟩) | ⟨_, _, rfl⟩ := h <;> simp

theorem disjointRegions_platformRegions_iff (p : Platform) :
    disjointRegions (platformRegions p) = true ↔ (platformRegions p).Pairwise Region.Apart := by
  rw [disjointRegions_iff_pairwise]
  exact List.Pairwise.iff_of_mem fun hr hq =>
    Region.overlaps_eq_false_iff_apart (size_pos_of_mem_platformRegions hr) (size_pos_of_mem_platformRegions hq)

theorem ringAligned_iff (a : BusAddr) : ringAligned a = true ↔ a.toNat % 16 = 0 := by
  simp [ringAligned]

theorem platformValid_iff (p : Platform) :
    platformValid p = true ↔
      p.txRingBase.toNat % 16 = 0 ∧ p.rxRingBase.toNat % 16 = 0 ∧ (platformRegions p).Pairwise Region.Apart := by
  simp only [platformValid, Bool.and_eq_true, ringAligned_iff, disjointRegions_platformRegions_iff, and_assoc]

/-! ## ATTACH -/

theorem exec_attach (s : State) : exec .attach s = .next s.attach := rfl

/-- The platform check comes before the mode check (R300): the other ways ATTACH can end have a valid platform. -/
theorem attach_of_platformValid_eq_false {s : State} (h : platformValid s.platform = false) :
    s.attach = s.refuse .platformInvalid := by
  obtain ⟨-, hrefused⟩ | ⟨hvalid, -⟩ | ⟨hvalid, -⟩ | ⟨hvalid, -⟩ | ⟨hvalid, -⟩ := attach_cases s
  · exact hrefused
  all_goals simp [h] at hvalid

/-! ## The obligations -/

/-- Settles O15: the overlap test on two regions is exact, and no region of a platform is empty. -/
theorem platformCheckExact : Obligations.PlatformCheckExact :=
  platformValid_iff

/-- Settles O14: such a platform fails the check, by its exact meaning (O15), and the check comes first. -/
theorem attachRefusesInvalidPlatform : Obligations.AttachRefusesInvalidPlatform := by
  intro s hbad
  have hinvalid : platformValid s.platform = false := by
    rw [← Bool.not_eq_true, platformCheckExact]
    rintro ⟨htx, hrx, hapart⟩
    exact hbad.elim (· htx) fun hbad => hbad.elim (· hrx) (· hapart)
  rw [exec_attach, attach_of_platformValid_eq_false hinvalid]
  rfl

end Sys2Proof.Machine
end

section
/-! What the fault set, the register file, the mode and the EN bits of a state are after an operation: the facts that the
statements on reset and on every step share (R32, R55, R60, R65, R196, R237). -/

namespace Sys2Proof.Machine

/-! ## The mode and the fault set after each success

`transmitOk_rest` and its like name every part that an operation leaves; these are the two parts cited most. -/

@[simp] theorem attachOk_faults (s : State) : s.attachOk.faults = s.faults := by
  simp only [attachOk_rest]

@[simp] theorem transmitOk_mode (s : State) (len : Half) (data : Bytes) : (s.transmitOk len data).mode = s.mode := by
  simp only [transmitOk_rest]

@[simp] theorem transmitOk_faults (s : State) (len : Half) (data : Bytes) :
    (s.transmitOk len data).faults = s.faults := by
  simp only [transmitOk_rest]

@[simp] theorem receiveOk_mode (s : State) (c : Nat) : (s.receiveOk c).mode = s.mode := by
  simp only [receiveOk_rest]

@[simp] theorem receiveOk_faults (s : State) (c : Nat) : (s.receiveOk c).faults = s.faults := by
  simp only [receiveOk_rest]

@[simp] theorem drainSlot_mode (s : State) (i : Nat) : (s.drainSlot i).mode = s.mode := by
  simp only [drainSlot_rest]

@[simp] theorem drainSlot_faults (s : State) (i : Nat) : (s.drainSlot i).faults = s.faults := by
  simp only [drainSlot_rest]

@[simp] theorem fillSlot_mode (s : State) (i : Nat) (frame : Bytes) (draw : RxDraw) :
    (s.fillSlot i frame draw).mode = s.mode := by
  simp only [fillSlot_rest]

@[simp] theorem fillSlot_faults (s : State) (i : Nat) (frame : Bytes) (draw : RxDraw) :
    (s.fillSlot i frame draw).faults = s.faults := by
  simp only [fillSlot_rest]

/-! ## The fault set (R60) -/

theorem FaultSet.has_add_iff (f : FaultSet) (k j : Fault) : (f.add k).has j = true ↔ j = k ∨ f.has j = true := by
  simp [FaultSet.has_add]

theorem FaultSet.has_add_of_has {f : FaultSet} {j : Fault} (h : f.has j = true) (k : Fault) : (f.add k).has j = true :=
  (f.has_add_iff k j).2 (.inr h)

theorem resetFrom_has (p : Platform) (d : Word) (draw : ResetDraw) (k : Fault) :
    (State.resetFrom p d draw).faults.has k = false := by
  cases k <;> rfl

/-! ## The register file (R31, R47) -/

/-- A register file is the values of its registers. -/
theorem Regs.ext_get {a b : Regs} (h : ∀ r, a.get r = b.get r) : a = b := by
  obtain ⟨_, _, _, _, _, _, _, _, _, _, _, _, _, _, _, _, _⟩ := a
  obtain ⟨_, _, _, _, _, _, _, _, _, _, _, _, _, _, _, _, _⟩ := b
  simp only [Regs.mk.injEq]
  exact ⟨h .ctrl, h .status, h .rctl, h .tctl, h .tipg, h .rdbal, h .rdbah, h .rdlen, h .rdh, h .rdt,
    h .tdbal, h .tdbah, h .tdlen, h .tdh, h .tdt, h .ral, h .rah⟩

/-- Writing back the value a register holds changes nothing. -/
theorem State.setReg_reg_self (s : State) (n : Reg) : s.setReg n (s.reg n) = s := by
  cases n <;> rfl

/-! ## The engines where their EN bits are 0 (R196, R237) -/

theorem txeDrain_of_txEnable_eq_false {s : State} (h : s.txEnable = false) : s.txeDrain = s := by
  have hdis : s.txeEnabled = false := by rw [State.txeEnabled, h, Bool.false_and]
  obtain ⟨-, hsame⟩ | ⟨hen, -⟩ | ⟨hen, -⟩ := txeDrain_cases s
  · exact hsame
  all_goals exact absurd (hdis.symm.trans hen) (by decide)

theorem rxeFill_of_rxEnable_eq_false {s : State} (h : s.rxEnable = false) (frame : Bytes) (draw : RxDraw) :
    s.rxeFill frame draw = s := by
  obtain ⟨-, hsame⟩ | ⟨-, hen, -⟩ | ⟨-, hen, -⟩ := rxeFill_cases s frame draw
  · exact hsame
  all_goals exact absurd (h.symm.trans hen) (by decide)

/-! ## The EN bits at reset (R65) -/

/-- The mask of R65 clears bit 1, the EN bit of TCTL and RCTL, and keeps every other. -/
theorem getLsbD_and_enMask (w : Word) (i : Nat) : (w &&& 0xFFFFFFFD).getLsbD i = (decide (i ≠ 1) && w.getLsbD i) := by
  rw [BitVec.getLsbD_and, Bool.and_comm]
  by_cases hi : i < 32
  · have hmask : ∀ i < 32, (0xFFFFFFFD : Word).getLsbD i = decide (i ≠ 1) := by decide
    rw [hmask i hi]
  · simp [BitVec.getLsbD_of_ge w i (Nat.le_of_not_lt hi)]

theorem resetFrom_enginesOff (p : Platform) (d : Word) (draw : ResetDraw) :
    (State.resetFrom p d draw).enginesOff :=
  ⟨getLsbD_and_enMask draw.regs.tctl 1, getLsbD_and_enMask draw.regs.rctl 1⟩

/-! ## The mode (R55) -/

theorem transmit_mode (s : State) (len : Half) (data : Bytes) : (s.transmit len data).mode = s.mode := by
  rcases transmit_cases s len data with ⟨_, e⟩ | ⟨_, e⟩ | ⟨_, _, e⟩ | ⟨_, _, _, e⟩ | ⟨_, _, _, _, e⟩ |
    ⟨_, _, _, _, _, e⟩ | ⟨_, _, _, _, _, e⟩ <;> simp [e]

theorem receive_mode (s : State) : s.receive.mode = s.mode := by
  rcases receive_cases s with ⟨_, e⟩ | ⟨_, e⟩ | ⟨_, _, e⟩ | ⟨_, _, _, e⟩ | ⟨_, _, _, e⟩ <;> simp [e]

theorem txeDrain_mode (s : State) : s.txeDrain.mode = s.mode := by
  obtain ⟨_, e⟩ | ⟨_, _, e⟩ | ⟨_, _, _, e⟩ := txeDrain_cases s <;> simp [e]

theorem rxeFill_mode (s : State) (frame : Bytes) (draw : RxDraw) : (s.rxeFill frame draw).mode = s.mode := by
  obtain ⟨_, e⟩ | ⟨_, _, _, e⟩ | ⟨_, _, _, _, e⟩ := rxeFill_cases s frame draw <;> simp [e]

/-- ATTACH changes the mode only from UNATTACHED, and then by what STATUS holds (R153). -/
theorem attach_mode_of_ne {s : State} (h : s.attach.mode ≠ s.mode) :
    s.mode = .unattached ∧ (s.attach.mode = .failed ↔ s.reg .status ≠ Config.statusSignature) := by
  rcases attach_cases s with ⟨_, e⟩ | ⟨_, _, e⟩ | ⟨_, _, e⟩ | ⟨_, hun, hst, e⟩ | ⟨_, hun, hst, e⟩
  case inl | inr.inl | inr.inr.inl => exact absurd (congrArg State.mode e) h
  · exact ⟨hun, by rw [e]; exact ⟨fun _ => hst, fun _ => rfl⟩⟩
  · exact ⟨hun, by rw [e]; exact ⟨fun hm => (nomatch hm), fun hne => absurd hst hne⟩⟩

/-- ATTACH has one word, `OP` = 1 with every other bit 0 (R110 to R114). -/
theorem word_of_decode_attach {w : Word} {data : Bytes} (h : decode w data = .ok .attach) : w = 0x00000001 := by
  unfold decode at h
  split_ifs at h with hrsv hop hlen <;> cases h
  simp only [rsvField, opField, lenField, BitVec.toNat_eq, BitVec.extractLsb'_toNat, Nat.shiftRight_eq_div_pow]
    at hrsv hop hlen
  bv_omega

/-- A label changes the mode only if it is the word of ATTACH (R55). -/
theorem runLabel_mode_of_ne {l : Label} {s t : State} (h : runLabel l s = .next t) (hne : t.mode ≠ s.mode) :
    t = s.attach ∧ ∃ data, l = .host 0x00000001 data := by
  cases l with
  | host w data =>
    rcases hostCommand_cases w data s t h with ⟨_, _, rfl⟩ | ⟨hdec, rfl⟩ | ⟨len, d, _, rfl⟩ | ⟨_, rfl⟩
    · exact absurd rfl hne
    · exact ⟨rfl, data, by rw [word_of_decode_attach hdec]⟩
    · exact absurd (transmit_mode s len d) hne
    · exact absurd (receive_mode s) hne
  | txeDrain =>
    cases h
    exact absurd (txeDrain_mode s) hne
  | rxeFill frame draw =>
    cases h
    exact absurd (rxeFill_mode s frame draw) hne

end Sys2Proof.Machine
end

section
/-! What every step keeps: the shapes of the two rings (R63, R64), the ranges of the cursors (R36, R37, R43, R44) and the
faults raised so far (R60). Each is `step_preserves` at one property of a state. -/

namespace Sys2Proof.Machine

/-! ## The TX ring (R63) -/

/-- Once attached and with no collapse recorded, the TX ring has its shape. -/
def State.TxRingIfLive (s : State) : Prop :=
  s.mode = .attached → s.faults.has .txWindowCollapse = false → s.TxRing

/-- An operation that leaves the mode and what the shape depends on, and clears no collapse, keeps it. -/
theorem State.TxRingIfLive.congr {s t : State} (h : s.TxRingIfLive) (hm : t.mode = s.mode)
    (hf : s.faults.has .txWindowCollapse = true → t.faults.has .txWindowCollapse = true)
    (hr : ∀ r, r = .tctl ∨ r = .tdh ∨ r = .tdt → t.reg r = s.reg r)
    (hd : t.txd = s.txd) (ha : t.txAccum = s.txAccum) : t.TxRingIfLive := fun hatt hlive =>
  (h (hm.symm.trans hatt) (by rw [← Bool.not_eq_true] at hlive ⊢; exact mt hf hlive)).congr hr hd ha

/-- TXE steps only where its window is not empty (R196). -/
theorem tdh_ne_tdt_of_txeEnabled {s : State} (h : s.txeEnabled = true) : s.reg .tdh ≠ s.reg .tdt := by
  simp only [State.txeEnabled, Bool.and_eq_true, bne_iff_ne] at h
  exact h.2

theorem step_keeps_txRingIfLive (s t : State) (h : s.TxRingIfLive) (hstep : step s = .next t) : t.TxRingIfLive := by
  refine step_preserves State.TxRingIfLive ?respond ?raise ?refuse ?drop ?attachFails ?attachOk ?transmitOk ?receiveOk
    ?drain ?fill s t h hstep
  case respond => exact fun s r h => h.congr rfl id (fun _ _ => rfl) rfl rfl
  case raise => exact fun s k h => h.congr rfl (FaultSet.has_add_of_has · k) (fun _ _ => rfl) rfl rfl
  case refuse => exact fun s k h => h.congr rfl id (fun _ _ => rfl) rfl rfl
  case drop => exact fun s h => h.congr rfl id (fun _ _ => rfl) rfl rfl
  case attachFails => exact fun s _ _ hatt => nomatch hatt
  case attachOk => exact fun s _ _ _ _ _ _ => attachOk_TxRing s
  case transmitOk =>
    intro s len data h _ hlen _ _ hcollapse hatt hlive
    rw [transmitOk_faults] at hlive
    have hapart : s.txCandidate ≠ (s.reg .tdh).toNat := fun heq =>
      absurd ((hcollapse (decide_eq_true heq)).symm.trans hlive) (by decide)
    rw [transmitOk_mode] at hatt
    exact (h hatt hlive).transmitOk len data hlen hapart
  case receiveOk =>
    intro s h _ _ _
    obtain ⟨htxd, -, -, -, haccum, -⟩ := receiveOk_rest s s.rxCursor
    exact h.congr (receiveOk_mode ..) (by simp) (by rintro _ (rfl | rfl | rfl) <;> simp [receiveOk_reg]) htxd haccum
  case drain =>
    intro s h hen _ _ hatt hlive
    rw [drainSlot_mode] at hatt
    rw [drainSlot_faults] at hlive
    exact (h hatt hlive).drainSlot (tdh_ne_tdt_of_txeEnabled hen)
  case fill =>
    intro s frame draw h _ _ _ _
    obtain ⟨htxd, -, -, haccum, -⟩ := fillSlot_rest s (s.reg .rdh).toNat frame draw
    exact h.congr (fillSlot_mode ..) (by simp) (by rintro _ (rfl | rfl | rfl) <;> simp [fillSlot_reg]) htxd haccum

/-! ## The RX ring (R64) -/

/-- Once attached, the RX ring has its shape. -/
def State.RxRingIfAttached (s : State) : Prop :=
  s.mode = .attached → ∃ k, s.RxRing k

theorem State.RxRingIfAttached.congr {s t : State} (h : s.RxRingIfAttached) (hm : t.mode = s.mode)
    (hr : ∀ r, r = .rctl ∨ r = .rdh ∨ r = .rdt → t.reg r = s.reg r) (hd : t.rxd = s.rxd) : t.RxRingIfAttached :=
  fun hatt => (h (hm.symm.trans hatt)).imp fun _ hk => hk.congr hr hd

/-- RXE fills no slot that software owns, under either policy (R238, R239). -/
theorem rxDone_eq_false_of_rxAvail {s : State} {i : Nat} (h : s.rxAvail i = true) : s.rxDone i = false := by
  unfold State.rxAvail at h
  split at h <;> simp_all

/-- A ring whose head slot is not done has room for a frame: with 128 frames every slot is done. -/
theorem State.RxRing.lt_of_head_free {s : State} {k : Nat} (h : s.RxRing k) (hhead : (s.reg .rdh).toNat < Config.rxCap)
    (hfree : s.rxDone (s.reg .rdh).toNat = false) : k < Config.rxCap := by
  refine lt_of_le_of_ne h.count fun hfull => ?_
  have hdone := (h.done _ hhead).2 (by rw [hfull]; exact Nat.mod_lt _ (by decide))
  exact absurd (hfree.symm.trans hdone) (by decide)

/-- A ring whose slot at the consumption index is done holds a frame. -/
theorem State.RxRing.pos_of_cursor_done {s : State} {k : Nat} (h : s.RxRing k) (hdone : s.rxDone s.rxCursor = true) :
    0 < k :=
  Nat.lt_of_le_of_lt (Nat.zero_le _) ((h.done _ s.rxCursor_lt).1 hdone)

theorem step_keeps_rxRingIfAttached (s t : State) (h : s.RxRingIfAttached) (hstep : step s = .next t) :
    t.RxRingIfAttached := by
  refine step_preserves State.RxRingIfAttached ?respond ?raise ?refuse ?drop ?attachFails ?attachOk ?transmitOk
    ?receiveOk ?drain ?fill s t h hstep
  case respond => exact fun s r h => h.congr rfl (fun _ _ => rfl) rfl
  case raise => exact fun s k h => h.congr rfl (fun _ _ => rfl) rfl
  case refuse => exact fun s k h => h.congr rfl (fun _ _ => rfl) rfl
  case drop => exact fun s h => h.congr rfl (fun _ _ => rfl) rfl
  case attachFails => exact fun s _ _ hatt => nomatch hatt
  case attachOk => exact fun s _ _ _ _ _ => ⟨0, attachOk_RxRing s⟩
  case transmitOk =>
    intro s len data h _ _ _ _ _
    obtain ⟨hrxd, -⟩ := transmitOk_rest s len data
    exact h.congr (transmitOk_mode ..) (by rintro _ (rfl | rfl | rfl) <;> simp [transmitOk_reg]) hrxd
  case receiveOk =>
    intro s h _ hdone _ hatt
    rw [receiveOk_mode] at hatt
    obtain ⟨k, hk⟩ := h hatt
    exact ⟨k - 1, hk.receiveOk (hk.pos_of_cursor_done hdone)⟩
  case drain =>
    intro s h _ _ _
    obtain ⟨-, hrxd, -⟩ := drainSlot_rest s (s.reg .tdh).toNat
    exact h.congr (drainSlot_mode ..) (by rintro _ (rfl | rfl | rfl) <;> simp [drainSlot_reg]) hrxd
  case fill =>
    intro s frame draw h hlen _ hhead havail hatt
    rw [fillSlot_mode] at hatt
    obtain ⟨k, hk⟩ := h hatt
    exact ⟨k + 1, hk.fillSlot frame draw hlen (hk.lt_of_head_free hhead (rxDone_eq_false_of_rxAvail havail))⟩

/-! ## The cursors (R36, R37, R43, R44) -/

/-- Once attached, the cursors are in range. -/
def State.CursorsIfAttached (s : State) : Prop :=
  s.mode = .attached → s.cursorsInRange

theorem toNat_ofNat_nextTx (i : Nat) : (BitVec.ofNat 32 (nextTx i)).toNat = nextTx i :=
  toNat_ofNat_small _ ((nextTx_lt i).trans (by decide))

theorem toNat_ofNat_nextRx (i : Nat) : (BitVec.ofNat 32 (nextRx i)).toNat = nextRx i :=
  toNat_ofNat_small _ ((nextRx_lt i).trans (by decide))

theorem attachOk_cursorsInRange (s : State) : s.attachOk.cursorsInRange := by
  simp [State.cursorsInRange, attachOk_reg]

/-- TRANSMIT's OK moves TDT alone, to the candidate slot. -/
theorem State.cursorsInRange.transmitOk {s : State} (h : s.cursorsInRange) (len : Half) (data : Bytes) :
    (s.transmitOk len data).cursorsInRange := by
  obtain ⟨htdh, -, hrdh, hrdt⟩ := h
  refine ⟨by simpa [transmitOk_reg] using htdh, ?_, by simpa [transmitOk_reg] using hrdh,
    by simpa [transmitOk_reg] using hrdt⟩
  rw [transmitOk_reg, if_pos rfl, State.txCandidate, toNat_ofNat_nextTx]
  exact nextTx_lt _

/-- RECEIVE's OK moves RDT alone, to the next slot. -/
theorem State.cursorsInRange.receiveOk {s : State} (h : s.cursorsInRange) (c : Nat) :
    (s.receiveOk c).cursorsInRange := by
  obtain ⟨htdh, htdt, hrdh, -⟩ := h
  refine ⟨by simpa [receiveOk_reg] using htdh, by simpa [receiveOk_reg] using htdt,
    by simpa [receiveOk_reg] using hrdh, ?_⟩
  rw [receiveOk_reg, if_pos rfl, toNat_ofNat_nextRx]
  exact (nextRx_lt _).le

/-- A drain moves TDH alone, to the next slot. -/
theorem State.cursorsInRange.drainSlot {s : State} (h : s.cursorsInRange) (i : Nat) :
    (s.drainSlot i).cursorsInRange := by
  obtain ⟨-, htdt, hrdh, hrdt⟩ := h
  refine ⟨?_, by simpa [drainSlot_reg] using htdt, by simpa [drainSlot_reg] using hrdh,
    by simpa [drainSlot_reg] using hrdt⟩
  rw [drainSlot_reg, if_pos rfl, toNat_ofNat_nextTx]
  exact nextTx_lt _

/-- A fill moves RDH alone, to the next slot. -/
theorem State.cursorsInRange.fillSlot {s : State} (h : s.cursorsInRange) (i : Nat) (frame : Bytes) (draw : RxDraw) :
    (s.fillSlot i frame draw).cursorsInRange := by
  obtain ⟨htdh, htdt, -, hrdt⟩ := h
  refine ⟨by simpa [fillSlot_reg] using htdh, by simpa [fillSlot_reg] using htdt, ?_,
    by simpa [fillSlot_reg] using hrdt⟩
  rw [fillSlot_reg, if_pos rfl, toNat_ofNat_nextRx]
  exact nextRx_lt _

theorem step_keeps_cursorsIfAttached (s t : State) (h : s.CursorsIfAttached) (hstep : step s = .next t) :
    t.CursorsIfAttached := by
  refine step_preserves State.CursorsIfAttached ?respond ?raise ?refuse ?drop ?attachFails ?attachOk ?transmitOk
    ?receiveOk ?drain ?fill s t h hstep
  case respond => exact fun s r h => h
  case raise => exact fun s k h => h
  case refuse => exact fun s k h => h
  case drop => exact fun s h => h
  case attachFails => exact fun s _ _ hatt => nomatch hatt
  case attachOk => exact fun s _ _ _ _ _ => attachOk_cursorsInRange s
  case transmitOk => exact fun s len data h hatt _ _ _ _ _ => (h hatt).transmitOk len data
  case receiveOk => exact fun s h hatt _ _ _ => (h hatt).receiveOk _
  case drain =>
    exact fun s h _ _ _ hatt => (h ((drainSlot_mode ..).symm.trans hatt)).drainSlot _
  case fill =>
    exact fun s frame draw h _ _ _ _ hatt => (h ((fillSlot_mode ..).symm.trans hatt)).fillSlot _ frame draw

/-! ## The fault set (R60) -/

/-- Every way of changing the state keeps the set or adds to it. -/
theorem step_keeps_fault (k : Fault) (s t : State) (h : s.faults.has k = true) (hstep : step s = .next t) :
    t.faults.has k = true := by
  refine step_preserves (fun s => s.faults.has k = true) ?respond ?raise ?refuse ?drop ?attachFails ?attachOk ?transmitOk
    ?receiveOk ?drain ?fill s t h hstep
  case respond | refuse => exact fun _ _ h => h
  case raise => exact fun _ j h => FaultSet.has_add_of_has h j
  case drop => exact fun _ h => h
  case attachFails => exact fun _ h _ => h
  case attachOk => exact fun s h _ _ _ => by rwa [attachOk_faults]
  case transmitOk => exact fun s len data h _ _ _ _ _ => by rwa [transmitOk_faults]
  case receiveOk => exact fun s h _ _ _ => by rwa [receiveOk_faults]
  case drain => exact fun s h _ _ _ => by rwa [drainSlot_faults]
  case fill => exact fun s frame draw h _ _ _ _ => by rwa [fillSlot_faults]

end Sys2Proof.Machine
end

section
/-! Noninterference: CTRL, which no step reads or writes (R33), and what R65 leaves unspecified at reset, which nothing
reads before a successful ATTACH has written it (R322). -/

namespace Sys2Proof.Machine

/-! ## CTRL (R33) -/

section
variable (s : State) (v : Word)

theorem attach_setReg_ctrl : (s.setReg .ctrl v).attach = s.attach.setReg .ctrl v := by
  simp only [State.attach, State.setReg_platform, State.setReg_mode,
    State.reg_setReg_other s .ctrl .status v (by decide)]
  split
  · rfl
  · split
    · rfl
    · rfl
    · split <;> rfl

theorem transmit_setReg_ctrl (len : Half) (data : Bytes) :
    (s.setReg .ctrl v).transmit len data = (s.transmit len data).setReg .ctrl v := by
  have hcand : (s.setReg .ctrl v).txCandidate = s.txCandidate := rfl
  have hcoll : (s.setReg .ctrl v).txCollapses = s.txCollapses := rfl
  simp only [State.transmit, State.setReg_mode, State.setReg_txDone, hcand, hcoll]
  cases s.mode
  case unattached | failed => rfl
  case attached =>
    dsimp only
    split_ifs <;> rfl

theorem receive_setReg_ctrl : (s.setReg .ctrl v).receive = s.receive.setReg .ctrl v := by
  have hcur : (s.setReg .ctrl v).rxCursor = s.rxCursor := rfl
  simp only [State.receive, State.setReg_mode, State.setReg_rxDone, State.setReg_rxDesc, hcur]
  cases s.mode
  case unattached | failed => rfl
  case attached =>
    dsimp only
    split_ifs <;> rfl

theorem txeDrain_setReg_ctrl : (s.setReg .ctrl v).txeDrain = s.txeDrain.setReg .ctrl v := by
  have hen : (s.setReg .ctrl v).txeEnabled = s.txeEnabled := rfl
  have htdh : (s.setReg .ctrl v).reg .tdh = s.reg .tdh := rfl
  simp only [State.txeDrain, State.setReg_txDesc, hen, htdh]
  split_ifs
  case neg =>
    cases hc : cmdEop (s.txDesc (s.reg .tdh).toNat).cmd <;> simp [State.drainSlot, State.emitDrained, hc] <;> rfl
  all_goals rfl

theorem rxeFill_setReg_ctrl (frame : Bytes) (draw : RxDraw) :
    (s.setReg .ctrl v).rxeFill frame draw = (s.rxeFill frame draw).setReg .ctrl v := by
  have hen : (s.setReg .ctrl v).rxEnable = s.rxEnable := rfl
  have havail : (s.setReg .ctrl v).rxAvail = s.rxAvail := rfl
  have hrdh : (s.setReg .ctrl v).reg .rdh = s.reg .rdh := rfl
  simp only [State.rxeFill, hen, havail, hrdh]
  split_ifs <;> rfl

/-- Every label does the same whatever CTRL holds, and leaves it. -/
theorem runLabel_setReg_ctrl {t : State} {l : Label} (h : runLabel l s = .next t) :
    runLabel l (s.setReg .ctrl v) = .next (t.setReg .ctrl v) := by
  cases l with
  | host w data =>
    simp only [runLabel, hostCommand] at h ⊢
    generalize decode w data = decoded at h ⊢
    rcases decoded with _ | (_ | ⟨len, d⟩ | _) <;> cases h
    · rfl
    · exact congrArg _ (attach_setReg_ctrl s v)
    · exact congrArg _ (transmit_setReg_ctrl s v len d)
    · exact congrArg _ (receive_setReg_ctrl s v)
  | txeDrain => cases h; exact congrArg _ (txeDrain_setReg_ctrl s v)
  | rxeFill frame draw => cases h; exact congrArg _ (rxeFill_setReg_ctrl s v frame draw)

end

/-! ## Steps -/

theorem step_of_refused {s : State} {r : RefuseReason} (h : s.refused = some r) :
    step s = .refused (.afterRefusal r) := by
  simp only [step, nextStep, h]

theorem step_of_pending_nil {s : State} (h : s.refused = none) (hp : s.pending = []) : step s = .next s := by
  simp only [step, nextStep, h, hp, List.head?_nil]

theorem step_of_pending_cons {s : State} {l : Label} {rest : List Label} (h : s.refused = none)
    (hp : s.pending = l :: rest) : step s = runLabel l s.dropLabel := by
  simp only [step, nextStep, h, hp, List.head?_cons]

/-- Without the refusal mark every step has a next state. -/
theorem step_next {s : State} (h : s.refused = none) : ∃ t, step s = .next t := by
  cases hp : s.pending with
  | nil => exact ⟨s, step_of_pending_nil h hp⟩
  | cons l rest => rw [step_of_pending_cons h hp]; exact runLabel_next l _

theorem step_setReg_ctrl_next {s t : State} (v : Word) (h : step s = .next t) :
    step (s.setReg .ctrl v) = .next (t.setReg .ctrl v) := by
  obtain ⟨hnone, ⟨hp, rfl⟩ | ⟨l, rest, hp, hrun⟩⟩ := step_cases s t h
  · exact step_of_pending_nil hnone hp
  · rw [step_of_pending_cons (s := s.setReg .ctrl v) hnone hp]
    exact runLabel_setReg_ctrl s.dropLabel v hrun

theorem step_setReg_ctrl_refused {s : State} {r : Refusal} (v : Word) (h : step s = .refused r) :
    step (s.setReg .ctrl v) = .refused r := by
  cases hr : s.refused with
  | none =>
    obtain ⟨t, ht⟩ := step_next hr
    exact nomatch h.symm.trans ht
  | some reason =>
    rw [← h, step_of_refused hr, step_of_refused (s := s.setReg .ctrl v) hr]

/-- A step leaves CTRL: writing back the value CTRL holds changes no state, so the step's own next state has that value. -/
theorem step_reg_ctrl {s t : State} (h : step s = .next t) : t.reg .ctrl = s.reg .ctrl := by
  have hback := step_setReg_ctrl_next (s.reg .ctrl) h
  rw [State.setReg_reg_self, h] at hback
  injection hback with hback
  exact (congrArg (State.reg · .ctrl) hback).trans (State.reg_setReg_same _ _ _ (by decide))

/-! ## The draws of reset (R65, R322) -/

/-- Two states before a successful ATTACH that differ in nothing but what R65 leaves unspecified, both engines off. -/
structure State.OffAlike (s s' : State) : Prop where
  agrees : s.AgreesButDraws s'
  notAttached : s.mode ≠ .attached
  off : s.enginesOff
  off' : s'.enginesOff

namespace State.OffAlike

variable {s s' : State}

theorem respond (h : s.OffAlike s') (r : Response) : (s.respond r).OffAlike (s'.respond r) where
  agrees := { h.agrees with responses := congrArg (· ++ [r]) h.agrees.responses }
  notAttached := h.notAttached
  off := h.off
  off' := h.off'

theorem raise (h : s.OffAlike s') (k : Fault) : (s.raise k).OffAlike (s'.raise k) where
  agrees := { h.agrees with faults := congrArg (·.add k) h.agrees.faults }
  notAttached := h.notAttached
  off := h.off
  off' := h.off'

theorem refuse (h : s.OffAlike s') (r : RefuseReason) : (s.refuse r).OffAlike (s'.refuse r) where
  agrees := { h.agrees with refused := rfl }
  notAttached := h.notAttached
  off := h.off
  off' := h.off'

theorem setMode (h : s.OffAlike s') {m : Mode} (hm : m ≠ .attached) : (s.setMode m).OffAlike (s'.setMode m) where
  agrees := { h.agrees with mode := rfl }
  notAttached := hm
  off := h.off
  off' := h.off'

theorem dropLabel (h : s.OffAlike s') : s.dropLabel.OffAlike s'.dropLabel where
  agrees := { h.agrees with pending := congrArg List.tail h.agrees.pending }
  notAttached := h.notAttached
  off := h.off
  off' := h.off'

theorem fault (h : s.OffAlike s') (k : Fault) : (s.fault k).OffAlike (s'.fault k) := (h.raise k).respond _

end State.OffAlike

/-- ATTACH's OK writes every register but CTRL and STATUS and all four byte spaces. -/
theorem State.AgreesButDraws.attachOk_eq {s s' : State} (h : s.AgreesButDraws s') :
    s'.attachOk = s.attachOk.setReg .ctrl (s'.reg .ctrl) := by
  obtain ⟨hplatform, hstatus, hmode, haccum, hlog, hfaults, hrefused, hpending, hresponses⟩ := h
  have hreg (r : Reg) : s'.attachOk.reg r = (s.attachOk.setReg .ctrl (s'.reg .ctrl)).reg r := by
    rw [State.reg_setReg, attachOk_reg, attachOk_reg]
    cases r <;> simp [hplatform, hstatus]
  apply State.ext
  case regs => exact Regs.ext_get hreg
  all_goals simp only [State.setReg_platform, State.setReg_txd, State.setReg_rxd, State.setReg_txb, State.setReg_rxb,
    State.setReg_mode, State.setReg_txAccum, State.setReg_txLog, State.setReg_faults, State.setReg_refused,
    State.setReg_pending, State.setReg_responses, attachOk_rest, hplatform, hlog, hfaults, hrefused, hpending, hresponses]

/-- How two such states may stand after the same step: alike again, or attached and equal but for CTRL, which is `c` in the
second. -/
def State.AlikeAfter (c : Word) (t t' : State) : Prop :=
  t.OffAlike t' ∨ (t.mode = .attached ∧ t' = t.setReg .ctrl c)

section
variable {s s' : State} (h : s.OffAlike s')
include h

/-- ATTACH decides on the platform, the mode and STATUS alone, in which the states agree. -/
theorem State.OffAlike.attach : State.AlikeAfter (s'.reg .ctrl) s.attach s'.attach := by
  simp only [State.attach, h.agrees.platform, h.agrees.mode, h.agrees.status]
  by_cases hinvalid : (!platformValid s.platform) = true
  · simp only [if_pos hinvalid]
    exact .inl (h.refuse _)
  simp only [if_neg hinvalid]
  cases hmode : s.mode
  case attached => exact absurd hmode h.notAttached
  case failed => exact .inl (h.fault _)
  case unattached =>
    by_cases hstatus : s.reg .status = Config.statusSignature
    · simp only [if_pos hstatus]
      exact .inr ⟨rfl, h.agrees.attachOk_eq⟩
    · simp only [if_neg hstatus]
      exact .inl ((h.setMode (by decide)).respond _)

/-- Outside mode ATTACHED, TRANSMIT raises the fault of its mode (R300). -/
theorem State.OffAlike.transmit (len : Half) (data : Bytes) :
    (s.transmit len data).OffAlike (s'.transmit len data) := by
  simp only [State.transmit, h.agrees.mode]
  cases hmode : s.mode
  case attached => exact absurd hmode h.notAttached
  case unattached | failed => exact h.fault _

/-- Outside mode ATTACHED, RECEIVE raises the fault of its mode (R300). -/
theorem State.OffAlike.receive : s.receive.OffAlike s'.receive := by
  simp only [State.receive, h.agrees.mode]
  cases hmode : s.mode
  case attached => exact absurd hmode h.notAttached
  case unattached | failed => exact h.fault _

theorem State.OffAlike.runLabel (l : Label) :
    ∃ t t', runLabel l s = .next t ∧ runLabel l s' = .next t' ∧ State.AlikeAfter (s'.reg .ctrl) t t' := by
  cases l with
  | host w data =>
    simp only [Machine.runLabel, hostCommand]
    generalize decode w data = decoded
    rcases decoded with _ | (_ | ⟨len, d⟩ | _)
    · exact ⟨_, _, rfl, rfl, .inl (h.fault _)⟩
    · exact ⟨_, _, rfl, rfl, h.attach⟩
    · exact ⟨_, _, rfl, rfl, .inl (h.transmit len d)⟩
    · exact ⟨_, _, rfl, rfl, .inl h.receive⟩
  | txeDrain =>
    refine ⟨_, _, rfl, rfl, .inl ?_⟩
    rwa [txeDrain_of_txEnable_eq_false h.off.1, txeDrain_of_txEnable_eq_false h.off'.1]
  | rxeFill frame draw =>
    refine ⟨_, _, rfl, rfl, .inl ?_⟩
    rwa [rxeFill_of_rxEnable_eq_false h.off.2, rxeFill_of_rxEnable_eq_false h.off'.2]

theorem State.OffAlike.step :
    (∃ r, step s = .refused r ∧ step s' = .refused r) ∨
    ∃ t t', step s = .next t ∧ step s' = .next t' ∧ State.AlikeAfter (s'.reg .ctrl) t t' := by
  have hrefused := h.agrees.refused
  have hpending := h.agrees.pending
  cases hr : s.refused with
  | some r => exact .inl ⟨_, step_of_refused hr, step_of_refused (hrefused.trans hr)⟩
  | none =>
    have hr' := hrefused.trans hr
    right
    cases hp : s.pending with
    | nil => exact ⟨s, s', step_of_pending_nil hr hp, step_of_pending_nil hr' (hpending.trans hp), .inl h⟩
    | cons l rest =>
      rw [step_of_pending_cons hr hp, step_of_pending_cons hr' (hpending.trans hp)]
      exact h.dropLabel.runLabel l

end

theorem resetFrom_offAlike (p : Platform) (d : Word) (draw draw' : ResetDraw) (ls : List Label) :
    State.OffAlike { State.resetFrom p d draw with pending := ls } { State.resetFrom p d draw' with pending := ls } where
  agrees := ⟨rfl, rfl, rfl, rfl, rfl, rfl, rfl, rfl, rfl⟩
  notAttached := nofun
  off := resetFrom_enginesOff p d draw
  off' := resetFrom_enginesOff p d draw'

end Sys2Proof.Machine
end

section
/-! The statements on the state, its reset and what every step keeps. -/

namespace Sys2Proof.Machine

/-- Settles O42: `step_keeps_txRingIfLive`. -/
theorem stepKeepsTxRing : Obligations.StepKeepsTxRing :=
  step_keeps_txRingIfLive

/-- Settles O43: `step_keeps_rxRingIfAttached`. -/
theorem stepKeepsRxRing : Obligations.StepKeepsRxRing :=
  step_keeps_rxRingIfAttached

/-- Settles O40: `step_keeps_cursorsIfAttached`. -/
theorem cursorsStayInRange : Obligations.CursorsStayInRange :=
  step_keeps_cursorsIfAttached

/-- Settles O44: the set is empty at reset, `add` is exact, and no way of changing the state removes a kind. -/
theorem faultsAreSticky : Obligations.FaultsAreSticky :=
  ⟨resetFrom_has, fun s k j => s.faults.has_add_iff k j, fun s t k hstep hk => step_keeps_fault k s t hk hstep⟩

/-- Settles O45: of all labels only ATTACH's word changes the mode, and of ATTACH's outcomes only those from
UNATTACHED. -/
theorem modeTransitions : Obligations.ModeTransitions := by
  intro s t hstep hne
  obtain ⟨-, ⟨-, rfl⟩ | ⟨l, rest, hp, hrun⟩⟩ := step_cases s t hstep
  · exact absurd rfl hne
  · obtain ⟨rfl, data, rfl⟩ := runLabel_mode_of_ne hrun hne
    obtain ⟨hun, hfailed⟩ := attach_mode_of_ne hne
    exact ⟨hun, ⟨data, rest, hp⟩, hfailed⟩

/-- Settles O10: two resets are alike, the step lemma `State.OffAlike.step` keeps that up to a successful ATTACH, and no
step reads or writes CTRL. -/
theorem resetDrawsNeverRead : Obligations.ResetDrawsNeverRead := by
  refine ⟨fun p d draw draw' ls => ?_, fun s s' hagrees hmode hoff hoff' => ?_, fun s v => ?_⟩
  · obtain ⟨hagrees, hmode, hoff, hoff'⟩ := resetFrom_offAlike p d draw draw' ls
    exact ⟨hagrees, hmode, hoff, hoff'⟩
  · obtain hrefused | ⟨t, t', ht, ht', halike⟩ := State.OffAlike.step ⟨hagrees, hmode, hoff, hoff'⟩
    · exact .inl hrefused
    · refine .inr ⟨t, t', ht, ht', halike.imp_left ?_⟩
      rintro ⟨hagrees, hmode, hoff, hoff'⟩
      exact ⟨hagrees, hmode, hoff, hoff'⟩
  · exact ⟨fun r h => step_setReg_ctrl_refused v h, fun t h => ⟨step_setReg_ctrl_next v h, step_reg_ctrl h⟩⟩

/-- Settles O9: the fixed values and the draws by the definition of reset, the EN bits by R65's mask, and the engines,
which are off, by `resetFrom_enginesOff`. -/
theorem resetValues : Obligations.ResetValues := by
  intro p d draw
  obtain ⟨htx, hrx⟩ := resetFrom_enginesOff p d draw
  have hkept (w : Word) (i : Nat) (hi : i ≠ 1) : (w &&& 0xFFFFFFFD).getLsbD i = w.getLsbD i := by
    rw [getLsbD_and_enMask, decide_eq_true hi, Bool.true_and]
  have hdrawn (r : Reg) (h1 : r ≠ .status) (h2 : r ≠ .tctl) (h3 : r ≠ .rctl) :
      (State.resetFrom p d draw).reg r = draw.regs.get r := by
    cases r
    case status => exact absurd rfl h1
    case tctl => exact absurd rfl h2
    case rctl => exact absurd rfl h3
    all_goals rfl
  exact ⟨rfl, resetFrom_has p d draw, rfl, rfl, rfl, rfl, htx, hrx, fun i hi => ⟨hkept _ i hi, hkept _ i hi⟩, hdrawn,
    rfl, rfl, rfl, rfl, rfl, txeDrain_of_txEnable_eq_false htx, rxeFill_of_rxEnable_eq_false hrx⟩

/-- Settles O36: R130's table, register by register. -/
theorem registerMap : Obligations.RegisterMap :=
  ⟨fun r => by cases r <;> decide, rfl⟩

/-- Settles O37: the read-after-write law of the register file. -/
theorem registerHoldsLastWrite : Obligations.RegisterHoldsLastWrite :=
  fun s n q v => ⟨State.reg_setReg_same s n v, State.reg_setReg_other s n q v, by simp [State.reg_setReg]⟩

end Sys2Proof.Machine
end

section
/-! The byte spaces (R80, R81): the canonical form says what a memory's data are, and the four spaces of a state keep that
form and their sizes at every step. -/

namespace Sys2Proof.Machine

/-! ## The canonical form -/

theorem Memory.wfAbove_some_iff (lo : Nat) (m : Memory) :
    Memory.wfAbove (some lo) m = true ↔
      (∀ c ∈ m, lo < c.1) ∧ m.Pairwise (fun c d => c.1 < d.1) ∧ ∀ c ∈ m, c.2 ≠ Memory.unlisted := by
  induction m generalizing lo with
  | nil => simp [Memory.wfAbove]
  | cons c m ih =>
    simp only [Memory.wfAbove, Bool.and_eq_true, decide_eq_true_eq, bne_iff_ne, ih, List.forall_mem_cons,
      List.pairwise_cons]
    constructor
    · rintro ⟨⟨hlo, hne⟩, habove, hpw, hnes⟩
      exact ⟨⟨hlo, fun d hd => hlo.trans (habove d hd)⟩, ⟨habove, hpw⟩, hne, hnes⟩
    · rintro ⟨⟨hlo, -⟩, ⟨habove, hpw⟩, hne, hnes⟩
      exact ⟨⟨hlo, hne⟩, habove, hpw, hnes⟩

theorem Memory.wf_iff (m : Memory) :
    m.wf = true ↔ m.Pairwise (fun c d => c.1 < d.1) ∧ ∀ c ∈ m, c.2 ≠ Memory.unlisted := by
  cases m with
  | nil => simp [Memory.wf, Memory.wfAbove]
  | cons c m =>
    simp only [Memory.wf, Memory.wfAbove, Bool.and_eq_true, bne_iff_ne, true_and, Memory.wfAbove_some_iff,
      List.forall_mem_cons, List.pairwise_cons]
    tauto

/-- A byte other than the unlisted value is read from a pair of the list. -/
theorem Memory.mem_of_read_ne {m : Memory} {a : Nat} (h : m.read a ≠ Memory.unlisted) : (a, m.read a) ∈ m := by
  induction m with
  | nil => exact absurd rfl h
  | cons c m ih =>
    obtain ⟨x, b⟩ := c
    by_cases hx : a = x
    · simp [Memory.read, hx]
    · simp only [Memory.read, if_neg hx] at h ⊢
      exact List.mem_cons_of_mem _ (ih h)

/-- With rising offsets no earlier pair hides a listed one. -/
theorem Memory.read_of_mem {m : Memory} {a : Nat} {b : Byte} (hpw : m.Pairwise (fun c d => c.1 < d.1))
    (h : (a, b) ∈ m) : m.read a = b := by
  induction m with
  | nil => exact absurd h List.not_mem_nil
  | cons c m ih =>
    obtain ⟨hfirst, hpw⟩ := List.pairwise_cons.1 hpw
    rcases List.mem_cons.1 h with rfl | hmem
    · simp [Memory.read]
    · have hne : a ≠ c.1 := (hfirst _ hmem).ne'
      simpa [Memory.read, hne] using ih hpw hmem

/-- A canonical memory lists exactly the bytes that do not read as the unlisted value. -/
theorem Memory.mem_iff_read {m : Memory} (h : m.wf = true) (c : Host.Cell) :
    c ∈ m ↔ m.read c.1 = c.2 ∧ c.2 ≠ Memory.unlisted := by
  obtain ⟨hpw, hne⟩ := (Memory.wf_iff m).1 h
  constructor
  · exact fun hc => ⟨Memory.read_of_mem hpw hc, hne c hc⟩
  · rintro ⟨hread, hc⟩
    have := Memory.mem_of_read_ne (hread ▸ hc)
    rwa [hread] at this

theorem Memory.nodup_of_wf {m : Memory} (h : m.wf = true) : m.Nodup :=
  ((Memory.wf_iff m).1 h).1.imp fun hlt heq => absurd (congrArg Prod.fst heq) hlt.ne

/-- Canonical memories are lists in rising order, so their pairs, which are the bytes they read, determine them. -/
theorem Memory.eq_of_read_eq {m n : Memory} (hm : m.wf = true) (hn : n.wf = true) (h : ∀ a, m.read a = n.read a) :
    m = n := by
  have hperm : m.Perm n := (List.perm_ext_iff_of_nodup (Memory.nodup_of_wf hm) (Memory.nodup_of_wf hn)).2 fun c => by
    rw [Memory.mem_iff_read hm, Memory.mem_iff_read hn, h]
  exact hperm.eq_of_pairwise (fun c d _ _ hcd hdc => absurd hcd hdc.asymm) ((Memory.wf_iff m).1 hm).1
    ((Memory.wf_iff n).1 hn).1

/-! ## Canonical form and size together -/

/-- A memory in canonical form that lists nothing outside a space of `n` bytes. -/
def Memory.Fits (n : Nat) (m : Memory) : Prop := m.wf = true ∧ m.within n = true

theorem Memory.Fits.writeBytes {n : Nat} {m : Memory} (h : m.Fits n) {a : Nat} {bs : Bytes} (ha : a + bs.length ≤ n) :
    (m.writeBytes a bs).Fits n :=
  ⟨Memory.wf_writeBytes m a bs h.1, Memory.within_writeBytes n m a bs h.2 ha⟩

theorem Memory.Fits.setField {n w : Nat} {m : Memory} (h : m.Fits n) {a : Nat} {v : BitVec w} (ha : a + w / 8 ≤ n) :
    (m.setField a v).Fits n :=
  ⟨Memory.wf_setField m a v h.1, Memory.within_setField n m a v h.2 ha⟩

theorem Memory.fits_zeros (n : Nat) : Memory.zeros.Fits n := ⟨rfl, rfl⟩

theorem State.memoryOk_iff (s : State) :
    s.memoryOk ↔ s.txd.Fits Space.txd.size ∧ s.rxd.Fits Space.rxd.size ∧ s.txb.Fits Space.txb.size ∧
      s.rxb.Fits Space.rxb.size := Iff.rfl

/-! ## Where descriptors and buffers end (R82, R83) -/

theorem txAt_add_le {i : Nat} (h : i < Config.txCap) (f : TxField) : txAt i f + f.bytes ≤ Space.txd.size := by
  cases f <;> simp only [txAt, descAt, TxField.offset, TxField.bytes, Space.size, Config.txCap, Config.descSize] at * <;>
    omega

theorem rxAt_add_le {i : Nat} (h : i < Config.rxCap) (f : RxField) : rxAt i f + f.bytes ≤ Space.rxd.size := by
  cases f <;> simp only [rxAt, descAt, RxField.offset, RxField.bytes, Space.size, Config.rxCap, Config.descSize] at * <;>
    omega

theorem txBufAt_add_le {i n : Nat} (h : i < Config.txCap) (hn : n ≤ Config.txBufSize) :
    txBufAt i + n ≤ Space.txb.size := by
  simp only [txBufAt, Space.size, Config.txCap, Config.txBufSize] at *
  omega

theorem rxBufAt_add_le {i n : Nat} (h : i < Config.rxCap) (hn : n ≤ Config.rxBufSize) :
    rxBufAt i + n ≤ Space.rxb.size := by
  simp only [rxBufAt, Space.size, Config.rxCap, Config.rxBufSize] at *
  omega

/-! ## Each way of changing the state keeps the four spaces -/

theorem attachOk_memoryOk (s : State) : s.attachOk.memoryOk := by
  obtain ⟨htxd, hrxd, htxb, hrxb, -⟩ := attachOk_rest s
  rw [State.memoryOk_iff, htxd, hrxd, htxb, hrxb]
  exact ⟨wf_initTxd _, wf_initRxd _, Memory.fits_zeros _, Memory.fits_zeros _⟩

theorem State.memoryOk.transmitOk {s : State} (h : s.memoryOk) {len : Half} (data : Bytes)
    (hlen : len.toNat < Config.maxFrame) : (s.transmitOk len data).memoryOk := by
  obtain ⟨htxd, hrxd, htxb, hrxb⟩ := s.memoryOk_iff.1 h
  obtain ⟨erxd, erxb, -⟩ := transmitOk_rest s len data
  have hfield := fun f => txAt_add_le s.txCandidate_lt f
  have hbuf := txBufAt_add_le s.txCandidate_lt ((packetOf_length_le len data).trans hlen.le)
  rw [State.memoryOk_iff, transmitOk_txd, transmitOk_txb, erxd, erxb]
  exact ⟨((htxd.setField (hfield .length)).setField (hfield .status)).setField (hfield .cmd), hrxd,
    htxb.writeBytes hbuf, hrxb⟩

theorem State.memoryOk.receiveOk {s : State} (h : s.memoryOk) {c : Nat} (hc : c < Config.rxCap) :
    (s.receiveOk c).memoryOk := by
  obtain ⟨htxd, hrxd, htxb, hrxb⟩ := s.memoryOk_iff.1 h
  obtain ⟨etxd, etxb, erxb, -⟩ := receiveOk_rest s c
  rw [State.memoryOk_iff, receiveOk_rxd, etxd, etxb, erxb]
  exact ⟨htxd, hrxd.setField (rxAt_add_le hc .status), htxb, hrxb⟩

theorem State.memoryOk.drainSlot {s : State} (h : s.memoryOk) {i : Nat} (hi : i < Config.txCap) :
    (s.drainSlot i).memoryOk := by
  obtain ⟨htxd, hrxd, htxb, hrxb⟩ := s.memoryOk_iff.1 h
  obtain ⟨etxb, erxd, erxb, -⟩ := drainSlot_rest s i
  rw [State.memoryOk_iff, drainSlot_txd, etxb, erxd, erxb]
  exact ⟨htxd.setField (txAt_add_le hi .status), hrxd, htxb, hrxb⟩

theorem State.memoryOk.fillSlot {s : State} (h : s.memoryOk) {i : Nat} (hi : i < Config.rxCap) {frame : Bytes}
    (hframe : frame.length ≤ Config.rxBufSize) (draw : RxDraw) : (s.fillSlot i frame draw).memoryOk := by
  obtain ⟨htxd, hrxd, htxb, hrxb⟩ := s.memoryOk_iff.1 h
  obtain ⟨etxd, etxb, -⟩ := fillSlot_rest s i frame draw
  have hfield := fun f => rxAt_add_le hi f
  rw [State.memoryOk_iff, fillSlot_rxd, fillSlot_rxb, etxd, etxb]
  exact ⟨htxd, ((((hrxd.setField (hfield .length)).setField (hfield .checksum)).setField (hfield .errors)).setField
    (hfield .special)).setField (hfield .status), htxb, hrxb.writeBytes (rxBufAt_add_le hi hframe)⟩

theorem step_keeps_memoryOk (s t : State) (h : s.memoryOk) (hstep : step s = .next t) : t.memoryOk := by
  refine step_preserves State.memoryOk ?respond ?raise ?refuse ?drop ?attachFails ?attachOk ?transmitOk ?receiveOk
    ?drain ?fill s t h hstep
  case respond | raise | refuse => exact fun _ _ h => h
  case drop => exact fun _ h => h
  case attachFails => exact fun _ h _ => h
  case attachOk => exact fun s _ _ _ _ => attachOk_memoryOk s
  case transmitOk => exact fun _ _ data h _ hlen _ _ _ => h.transmitOk data hlen
  case receiveOk => exact fun s h _ _ _ => h.receiveOk s.rxCursor_lt
  case drain => exact fun _ h _ hhead _ => h.drainSlot hhead
  case fill => exact fun _ _ draw h hframe _ hhead _ => h.fillSlot hhead hframe draw

/-! ## Every descriptor keeps its own buffer's address (R83) -/

@[simp] theorem transmitOk_platform (s : State) (len : Half) (data : Bytes) :
    (s.transmitOk len data).platform = s.platform := by
  simp only [transmitOk_rest]

@[simp] theorem receiveOk_platform (s : State) (c : Nat) : (s.receiveOk c).platform = s.platform := by
  simp only [receiveOk_rest]

@[simp] theorem drainSlot_platform (s : State) (i : Nat) : (s.drainSlot i).platform = s.platform := by
  simp only [drainSlot_rest]

@[simp] theorem fillSlot_platform (s : State) (i : Nat) (frame : Bytes) (draw : RxDraw) :
    (s.fillSlot i frame draw).platform = s.platform := by
  simp only [fillSlot_rest]

/-- What leaves the platform and every descriptor's address keeps the pairing. -/
theorem State.addressesPaired.congr {s t : State} (h : s.addressesPaired) (hp : t.platform = s.platform)
    (htx : ∀ i, (t.txDesc i).addr = (s.txDesc i).addr) (hrx : ∀ i, (t.rxDesc i).addr = (s.rxDesc i).addr) :
    t.addressesPaired := by
  simpa only [State.addressesPaired, hp, htx, hrx] using h

theorem attachOk_addressesPaired (s : State) : s.attachOk.addressesPaired := by
  have hp : s.attachOk.platform = s.platform := by simp only [attachOk_rest]
  constructor <;> intro i hi
  · rw [attachOk_txDesc s i hi, hp, txDescInit]
  · rw [attachOk_rxDesc s i hi, hp, rxDescInit]

theorem transmitOk_txDesc_addr (s : State) (len : Half) (data : Bytes) (i : Nat) :
    ((s.transmitOk len data).txDesc i).addr = (s.txDesc i).addr := by
  by_cases hi : i = s.txCandidate <;> simp [transmitOk_txDesc, hi]

theorem receiveOk_rxDesc_addr (s : State) (c i : Nat) : ((s.receiveOk c).rxDesc i).addr = (s.rxDesc i).addr := by
  by_cases hi : i = c <;> simp [receiveOk_rxDesc, hi]

theorem drainSlot_txDesc_addr (s : State) (h i : Nat) : ((s.drainSlot h).txDesc i).addr = (s.txDesc i).addr := by
  by_cases hi : i = h <;> simp [drainSlot_txDesc, hi]

theorem fillSlot_rxDesc_addr (s : State) (h : Nat) (frame : Bytes) (draw : RxDraw) (i : Nat) :
    ((s.fillSlot h frame draw).rxDesc i).addr = (s.rxDesc i).addr := by
  by_cases hi : i = h <;> simp [fillSlot_rxDesc, hi]

/-- Once attached, every descriptor has its buffer's address. -/
def State.PairedIfAttached (s : State) : Prop := s.mode = .attached → s.addressesPaired

theorem step_keeps_pairedIfAttached (s t : State) (h : s.PairedIfAttached) (hstep : step s = .next t) :
    t.PairedIfAttached := by
  refine step_preserves State.PairedIfAttached ?respond ?raise ?refuse ?drop ?attachFails ?attachOk ?transmitOk ?receiveOk
    ?drain ?fill s t h hstep
  case respond | raise | refuse => exact fun _ _ h => h
  case drop => exact fun _ h => h
  case attachFails => exact fun _ _ _ hatt => nomatch hatt
  case attachOk => exact fun s _ _ _ _ _ => attachOk_addressesPaired s
  case transmitOk =>
    intro s len data h hatt _ _ _ _ _
    obtain ⟨hrxd, -⟩ := transmitOk_rest s len data
    exact (h hatt).congr (transmitOk_platform ..) (transmitOk_txDesc_addr s len data) fun i => by
      simp only [State.rxDesc, hrxd]
  case receiveOk =>
    intro s h hatt _ _ _
    obtain ⟨htxd, -⟩ := receiveOk_rest s s.rxCursor
    exact (h hatt).congr (receiveOk_platform ..) (fun i => by simp only [State.txDesc, htxd])
      (receiveOk_rxDesc_addr s _)
  case drain =>
    intro s h _ _ _ hatt
    obtain ⟨-, hrxd, -⟩ := drainSlot_rest s (s.reg .tdh).toNat
    rw [drainSlot_mode] at hatt
    exact (h hatt).congr (drainSlot_platform ..) (drainSlot_txDesc_addr s _) fun i => by
      simp only [State.rxDesc, hrxd]
  case fill =>
    intro s frame draw h _ _ _ _ hatt
    obtain ⟨htxd, -⟩ := fillSlot_rest s (s.reg .rdh).toNat frame draw
    rw [fillSlot_mode] at hatt
    exact (h hatt).congr (fillSlot_platform ..) (fun i => by simp only [State.txDesc, htxd])
      (fillSlot_rxDesc_addr s _ frame draw)

/-! ## `MemRead` and `MemWrite` (R81, R86) -/

section
variable {sp : Space}

theorem State.memRead_eq (s : State) (hsp : sp ≠ .reg) (a n : Nat) :
    s.memRead sp a n = if a + n ≤ sp.size then some ((s.mem sp).bytes a n) else none := by
  cases sp
  case reg => exact absurd rfl hsp
  all_goals simp only [State.memRead, Space.holds, decide_eq_true_eq]

theorem State.memWrite_eq (s : State) (hsp : sp ≠ .reg) (a : Nat) (v : Bytes) :
    s.memWrite sp a v =
      if a + v.length ≤ sp.size then some (s.setMem sp ((s.mem sp).writeBytes a v)) else none := by
  cases sp
  case reg => exact absurd rfl hsp
  all_goals simp only [State.memWrite, Space.holds, decide_eq_true_eq]

theorem State.mem_setMem_same (s : State) (hsp : sp ≠ .reg) (m : Memory) : (s.setMem sp m).mem sp = m := by
  cases sp
  case reg => exact absurd rfl hsp
  all_goals rfl

theorem State.mem_setMem_other (s : State) {sq : Space} (h : sq ≠ sp) (m : Memory) :
    (s.setMem sp m).mem sq = s.mem sq := by
  cases sp <;> cases sq
  case reg.reg | txd.txd | rxd.rxd | txb.txb | rxb.rxb => exact absurd rfl h
  all_goals rfl

theorem State.reg_setMem (s : State) (sp : Space) (m : Memory) (r : Reg) : (s.setMem sp m).reg r = s.reg r := by
  cases sp <;> rfl

end

/-- R86: the whole register at its offset. -/
theorem State.memRead_reg (s : State) (r : Reg) : s.memRead .reg r.offset 4 = some (leBytes 4 (s.reg r).toNat) := by
  obtain ⟨hfound, -⟩ := registerMap.1 r
  simp [State.memRead, Space.holds, hfound]

theorem ofNat_leNat_leBytes (w : Word) : BitVec.ofNat 32 (leNat (leBytes 4 w.toNat)) = w := by
  rw [leNat_leBytes, show (256 : Nat) ^ 4 = 2 ^ 32 from rfl, Nat.mod_eq_of_lt w.isLt, BitVec.ofNat_toNat, BitVec.setWidth_eq]

end Sys2Proof.Machine
end

section
/-! Noninterference between the two sides of the block: an operation that neither reads nor writes the RX side commutes
with every step of the RX side (R92). -/

namespace Sys2Proof.Machine

/-! ## Replacing the RX side -/

/-- `s` with another RX side: the registers of `rxRegs` as `ρ` has them, and other contents of RXD and RXB. -/
def State.withRx (s : State) (ρ : Regs) (rxd rxb : Memory) : State :=
  { s with
    regs := { s.regs with
      rctl := ρ.rctl, rdbal := ρ.rdbal, rdbah := ρ.rdbah, rdlen := ρ.rdlen, rdh := ρ.rdh, rdt := ρ.rdt,
      ral := ρ.ral, rah := ρ.rah }
    rxd := rxd
    rxb := rxb }

theorem State.withRx_self (s : State) : s.withRx s.regs s.rxd s.rxb = s := rfl

section
variable (s : State) (ρ : Regs) (rxd rxb : Memory) {r : Reg}

theorem State.withRx_reg (hr : r ∈ rxRegs) : (s.withRx ρ rxd rxb).reg r = ρ.get r := by
  fin_cases hr <;> rfl

theorem State.withRx_setReg (hr : r ∈ rxRegs) (v : Word) :
    (s.withRx ρ rxd rxb).setReg r v = s.withRx (ρ.set r v) rxd rxb := by
  fin_cases hr <;> rfl

end

/-! ## Operations that are independent of the RX side -/

/-- `f` neither reads nor writes the RX side, so it commutes with replacing it; it commutes with marking a fault, and it
keeps the platform, which holds RXE's policy. -/
structure IndependentOfRx (f : State → State) : Prop where
  withRx : ∀ (s : State) (ρ : Regs) (rxd rxb : Memory), f (s.withRx ρ rxd rxb) = (f s).withRx ρ rxd rxb
  raise : ∀ (s : State) (k : Fault), f (s.raise k) = (f s).raise k
  platform : ∀ s : State, (f s).platform = s.platform

namespace IndependentOfRx

variable {f : State → State} (hf : IndependentOfRx f) (s : State)
include hf

/-! What such an operation keeps. -/

/-- Replacing the RX side by itself changes nothing, so the RX side of `f s` is that of `s`. -/
theorem eq_withRx : f s = (f s).withRx s.regs s.rxd s.rxb :=
  hf.withRx s s.regs s.rxd s.rxb

theorem reg {r : Reg} (hr : r ∈ rxRegs) : (f s).reg r = s.reg r := by
  rw [hf.eq_withRx, State.withRx_reg _ _ _ _ hr, State.reg]

theorem rxd : (f s).rxd = s.rxd := by
  rw [hf.eq_withRx, State.withRx]

theorem rxb : (f s).rxb = s.rxb := by
  rw [hf.eq_withRx, State.withRx]

theorem rxDesc (i : Nat) : (f s).rxDesc i = s.rxDesc i := by
  simp only [State.rxDesc, hf.rxd]

theorem rxDone (i : Nat) : (f s).rxDone i = s.rxDone i := by
  simp only [State.rxDone, hf.rxDesc]

theorem rxBuf (i a b : Nat) : (f s).rxBuf i a b = s.rxBuf i a b := by
  simp only [State.rxBuf, hf.rxb]

theorem rxEnable : (f s).rxEnable = s.rxEnable := by
  simp only [State.rxEnable, hf.reg s (r := .rctl) (by decide)]

theorem rxCursor : (f s).rxCursor = s.rxCursor := by
  simp only [State.rxCursor, hf.reg s (r := .rdt) (by decide)]

theorem rxAvail (h : Nat) : (f s).rxAvail h = s.rxAvail h := by
  simp only [State.rxAvail, hf.platform, hf.rxDone, hf.reg s (r := .rdt) (by decide)]

/-! The writes of the RX side that it commutes with. -/

theorem setReg {r : Reg} (hr : r ∈ rxRegs) (v : Word) : f (s.setReg r v) = (f s).setReg r v := by
  conv_rhs => rw [hf.eq_withRx, State.withRx_setReg _ _ _ _ hr]
  rw [← hf.withRx, ← State.withRx_setReg _ _ _ _ hr, State.withRx_self]

theorem setRx {w : Nat} (i : Nat) (field : RxField) (v : BitVec w) :
    f (s.setRx i field v) = (f s).setRx i field v := by
  rw [hf.eq_withRx s]
  exact hf.withRx s s.regs (s.rxd.setField (rxAt i field) v) s.rxb

theorem writeRxBuf (i : Nat) (v : Bytes) : f (s.writeRxBuf i v) = (f s).writeRxBuf i v := by
  rw [hf.eq_withRx s]
  exact hf.withRx s s.regs s.rxd (s.rxb.writeBytes (rxBufAt i) v)

theorem fillSlot (h : Nat) (frame : Bytes) (draw : RxDraw) :
    f (s.fillSlot h frame draw) = (f s).fillSlot h frame draw := by
  simp only [State.fillSlot, hf.setReg _ (r := .rdh) (by decide), hf.setRx, hf.writeRxBuf]

theorem handBack (c : Nat) : f (s.handBack c) = (f s).handBack c := by
  simp only [State.handBack, hf.setReg _ (r := .rdt) (by decide), hf.setRx, hf.rxDesc]

/-! The steps of the RX side that it commutes with. -/

/-- RXE decides and writes on the RX side alone. -/
theorem rxeFill (frame : Bytes) (draw : RxDraw) : f (s.rxeFill frame draw) = (f s).rxeFill frame draw := by
  simp only [State.rxeFill, hf.rxEnable, hf.rxAvail, hf.reg s (r := .rdh) (by decide)]
  split_ifs
  · rfl
  · rfl
  · exact hf.raise s _
  · rfl
  · exact hf.fillSlot s _ frame draw

/-- RECEIVE decides on the mode and the RX side, writes the RX side and sends a response. -/
theorem receive (hmode : ∀ s, (f s).mode = s.mode) (hrespond : ∀ s r, f (s.respond r) = (f s).respond r) :
    f s.receive = (f s).receive := by
  have hfault (k : Fault) : f (s.fault k) = (f s).fault k := by
    simp only [State.fault_eq, hrespond, hf.raise]
  simp only [State.receive, hmode, hf.rxCursor, hf.rxDone, hf.rxDesc]
  cases s.mode
  case unattached | failed => exact hfault _
  case attached =>
    dsimp only
    split_ifs
    · exact hrespond s _
    · exact hfault _
    · simp only [State.receiveOk, State.resultData_eq, hrespond, hf.handBack, hf.rxDesc, hf.rxBuf]

end IndependentOfRx

/-! ## TXE and TRANSMIT are independent of the RX side -/

theorem FaultSet.add_comm (f : FaultSet) (j k : Fault) : (f.add j).add k = (f.add k).add j := by
  cases j <;> cases k <;> rfl

theorem State.raise_comm (s : State) (j k : Fault) : (s.raise j).raise k = (s.raise k).raise j := by
  simp only [State.raise, FaultSet.add_comm]

/-- TXE decides on TCTL.EN, TDH, TDT and TXD; it commutes with a write of the rest that its drain commutes with. -/
theorem txeDrain_comm {w : State → State} {s : State} (hen : (w s).txeEnabled = s.txeEnabled)
    (htdh : (w s).reg .tdh = s.reg .tdh) (hdesc : ∀ i, (w s).txDesc i = s.txDesc i)
    (hraise : (w s).raise .invariantBroken = w (s.raise .invariantBroken))
    (hdrain : ∀ h, (w s).drainSlot h = w (s.drainSlot h)) : (w s).txeDrain = w s.txeDrain := by
  simp only [State.txeDrain, hen, htdh, hdesc]
  split_ifs
  · rfl
  · exact hraise
  · exact hraise
  · exact hdrain _

theorem txeDrain_independentOfRx : IndependentOfRx State.txeDrain where
  withRx s ρ rxd rxb := txeDrain_comm (w := (·.withRx ρ rxd rxb)) rfl rfl (fun _ => rfl) rfl fun h => by
    have hdesc : (s.withRx ρ rxd rxb).txDesc h = s.txDesc h := rfl
    rw [State.drainSlot, State.drainSlot, State.emitDrained, State.emitDrained, hdesc]
    cases cmdEop (s.txDesc h).cmd <;> rfl
  raise s k := txeDrain_comm (w := (·.raise k)) rfl rfl (fun _ => rfl) (s.raise_comm k _) fun h => by
    rw [State.drainSlot, State.drainSlot, State.emitDrained, State.emitDrained, State.raise_txDesc]
    cases cmdEop (s.txDesc h).cmd <;> rfl
  platform s := by
    obtain ⟨_, e⟩ | ⟨_, _, e⟩ | ⟨_, _, _, e⟩ := txeDrain_cases s <;> simp [e]

theorem txeDrain_respond (s : State) (r : Response) : (s.respond r).txeDrain = s.txeDrain.respond r :=
  txeDrain_comm (w := (·.respond r)) rfl rfl (fun _ => rfl) rfl fun h => by
    rw [State.drainSlot, State.drainSlot, State.emitDrained, State.emitDrained, State.respond_txDesc]
    cases cmdEop (s.txDesc h).cmd <;> rfl

theorem transmit_independentOfRx (len : Half) (data : Bytes) : IndependentOfRx (·.transmit len data) where
  withRx s ρ rxd rxb := by
    have hmode : (s.withRx ρ rxd rxb).mode = s.mode := rfl
    have hdone : (s.withRx ρ rxd rxb).txDone = s.txDone := rfl
    have hcand : (s.withRx ρ rxd rxb).txCandidate = s.txCandidate := rfl
    have hcoll : (s.withRx ρ rxd rxb).txCollapses = s.txCollapses := rfl
    simp only [State.transmit, hmode, hdone, hcand, hcoll]
    cases s.mode
    case unattached | failed => rfl
    case attached =>
      dsimp only
      split_ifs <;> rfl
  raise s k := by
    have hcand : (s.raise k).txCandidate = s.txCandidate := rfl
    have hcoll : (s.raise k).txCollapses = s.txCollapses := rfl
    simp only [State.transmit, State.raise_mode, State.raise_txDone, hcand, hcoll, State.fault, s.raise_comm k]
    cases s.mode
    case unattached | failed => rfl
    case attached =>
      dsimp only
      split_ifs <;> rfl
  platform s := by
    rcases transmit_cases s len data with ⟨_, e⟩ | ⟨_, e⟩ | ⟨_, _, e⟩ | ⟨_, _, _, e⟩ | ⟨_, _, _, _, e⟩ |
      ⟨_, _, _, _, _, e⟩ | ⟨_, _, _, _, _, e⟩ <;> simp [e]

end Sys2Proof.Machine
end

section
/-! The statements on the byte spaces, on steps of the two sides, and on engine steps that move no frame. -/

namespace Sys2Proof.Machine

/-- Settles O31: TXE and TRANSMIT are independent of the RX side, on which alone RXE and RECEIVE work, but for RECEIVE's
response. -/
theorem sidesCommute : Obligations.SidesCommute := fun s frame draw len data =>
  ⟨(txeDrain_independentOfRx.rxeFill s frame draw).symm,
    (txeDrain_independentOfRx.receive s txeDrain_mode txeDrain_respond).symm,
    (transmit_independentOfRx len data).rxeFill s frame draw⟩

/-- Settles O32: `step_keeps_memoryOk`. -/
theorem stepKeepsMemory : Obligations.StepKeepsMemory :=
  step_keeps_memoryOk

/-- Settles O34: a canonical memory lists exactly the bytes it reads, in rising order. -/
theorem canonicalMemoriesAgree : Obligations.CanonicalMemoriesAgree :=
  fun _ _ => Memory.eq_of_read_eq

/-- Settles O35: the byte spaces by the laws of `Memory.writeBytes`, the registers by the byte order. -/
theorem memoryPrimitives : Obligations.MemoryPrimitives := by
  intro s sp a v hsp
  refine ⟨fun hin => ?_, fun hout => ?_, fun r => ⟨_, s.memRead_reg r, ofNat_leNat_leBytes _⟩⟩
  · refine ⟨s.setMem sp ((s.mem sp).writeBytes a v), ?_, ?_, fun x hx => ?_, fun sq hsq => s.mem_setMem_other hsq _,
      s.reg_setMem sp _⟩
    · rw [s.memWrite_eq hsp, if_pos hin]
    · rw [State.memRead_eq _ hsp, if_pos hin, s.mem_setMem_same hsp, Memory.bytes_writeBytes_same]
    · rw [s.mem_setMem_same hsp, Memory.read_writeBytes_other _ _ _ _ hx]
  · rw [s.memWrite_eq hsp, s.memRead_eq hsp, if_neg hout.not_ge, if_neg hout.not_ge]
    exact ⟨rfl, rfl⟩

/-- Settles O41: `step_keeps_pairedIfAttached`. -/
theorem addressesStayPaired : Obligations.AddressesStayPaired :=
  step_keeps_pairedIfAttached

/-- TXE is enabled exactly where TCTL.EN is set and the window is not empty (R196). -/
theorem txeEnabled_iff (s : State) : s.txeEnabled = true ↔ s.txEnable = true ∧ s.reg .tdh ≠ s.reg .tdt := by
  simp only [State.txeEnabled, Bool.and_eq_true, bne_iff_ne]

/-- Settles O28: of the ways TXE's step can end, each clause leaves one. -/
theorem drainOtherwise : Obligations.DrainOtherwise := by
  intro s
  constructor
  · intro hoff
    have hdis : ¬ s.txeEnabled = true := by
      rw [txeEnabled_iff]
      rintro ⟨hen, hne⟩
      exact hoff.elim (fun h => absurd (h.symm.trans hen) (by decide)) hne
    obtain ⟨-, hsame⟩ | ⟨hen, -⟩ | ⟨hen, -⟩ := txeDrain_cases s
    · exact hsame
    all_goals exact absurd hen hdis
  · intro hen hne hbroken
    have hon : s.txeEnabled = true := (txeEnabled_iff s).2 ⟨hen, hne⟩
    obtain ⟨hdis, -⟩ | ⟨-, -, hraise⟩ | ⟨-, hhead, hlen, -⟩ := txeDrain_cases s
    · exact absurd (hdis.symm.trans hon) (by decide)
    · exact hraise
    · simp only [Config.txCap, Config.txBufSize] at hhead hlen
      omega

/-- RXE may not fill a slot that software owns, nor, under `Window`, the slot of RDT (R238, R239). -/
theorem rxAvail_eq_false {s : State} {h : Nat}
    (hbusy : s.rxDone h = true ∨ (s.platform.rxAvailPolicy = .window ∧ h = (s.reg .rdt).toNat)) : s.rxAvail h = false := by
  unfold State.rxAvail
  rcases hbusy with hdone | ⟨hwindow, hrdt⟩
  · split <;> simp [hdone]
  · simp [hwindow, hrdt]

/-- Settles O30: of the ways RXE's step can end, each clause leaves one. -/
theorem frameLostWithoutTrace : Obligations.FrameLostWithoutTrace := by
  intro s frame draw
  refine ⟨fun hlost => ?_, fun hhead hbusy => ?_, fun hlen hen hout => ?_⟩
  · obtain ⟨-, hsame⟩ | ⟨hlen, hen, -⟩ | ⟨hlen, hen, -⟩ := rxeFill_cases s frame draw
    · exact hsame
    all_goals exact hlost.elim (fun h => absurd hlen h.not_ge) fun h => absurd (h.symm.trans hen) (by decide)
  · have hfull : s.rxAvail (s.reg .rdh).toNat = false :=
      rxAvail_eq_false (hbusy.imp_right fun ⟨hwindow, heq⟩ => ⟨hwindow, congrArg BitVec.toNat heq⟩)
    obtain ⟨-, hsame⟩ | ⟨-, -, hout, -⟩ | ⟨-, -, -, havail, -⟩ := rxeFill_cases s frame draw
    · exact hsame
    · exact absurd hhead hout.not_gt
    · exact absurd (hfull.symm.trans havail) (by decide)
  · obtain ⟨hlong | hoff | ⟨hhead, -⟩, -⟩ | ⟨-, -, -, hraise⟩ | ⟨-, -, hhead, -⟩ := rxeFill_cases s frame draw
    · exact absurd hlen hlong.not_ge
    · exact absurd (hoff.symm.trans hen) (by decide)
    · exact absurd hhead hout.not_gt
    · exact hraise
    · exact absurd hhead hout.not_gt

/-- Settles O33: reset lists no byte at all. -/
theorem resetMemory : Obligations.ResetMemory := fun _ _ =>
  ⟨Memory.fits_zeros _, Memory.fits_zeros _, Memory.fits_zeros _, Memory.fits_zeros _⟩

end Sys2Proof.Machine
end

section
/-! The command word and the response word by their fields (R110, R116), and the decoder as a relation between words and
commands (R111 to R115). -/

namespace Sys2Proof

/-! ## The fields of a word (R110) -/

theorem opField_toNat (w : Word) : (opField w).toNat = w.toNat % 16 := by
  simp [opField]

theorem rsvField_toNat (w : Word) : (rsvField w).toNat = w.toNat / 16 % 4096 := by
  simp [rsvField, Nat.shiftRight_eq_div_pow]

theorem lenField_toNat (w : Word) : (lenField w).toNat = w.toNat / 65536 := by
  have hw := w.isLt
  simp only [lenField, BitVec.extractLsb'_toNat, Nat.shiftRight_eq_div_pow]
  omega

theorem commandWord_toNat (op : BitVec 4) (len : Half) : (commandWord op len).toNat = 65536 * len.toNat + op.toNat := by
  have hop : op.toNat < 2 ^ 16 := op.isLt.trans (by decide)
  have hlen := len.isLt
  simp only [commandWord, BitVec.toNat_or, BitVec.toNat_shiftLeft, BitVec.toNat_setWidth, Nat.shiftLeft_eq]
  rw [Nat.mod_eq_of_lt (a := len.toNat) (by omega), Nat.mod_eq_of_lt (a := op.toNat) (by omega),
    Nat.mod_eq_of_lt (a := len.toNat * 2 ^ 16) (by omega), Nat.mul_comm, ← Nat.two_pow_add_eq_or_of_lt hop]

@[simp] theorem opField_commandWord (op : BitVec 4) (len : Half) : opField (commandWord op len) = op := by
  have hop := op.isLt
  apply BitVec.eq_of_toNat_eq
  rw [opField_toNat, commandWord_toNat]
  omega

@[simp] theorem rsvField_commandWord (op : BitVec 4) (len : Half) : rsvField (commandWord op len) = 0 := by
  have hop := op.isLt
  apply BitVec.eq_of_toNat_eq
  rw [rsvField_toNat, commandWord_toNat, show (0 : BitVec 12).toNat = 0 from rfl]
  omega

@[simp] theorem lenField_commandWord (op : BitVec 4) (len : Half) : lenField (commandWord op len) = len := by
  have hop := op.isLt
  apply BitVec.eq_of_toNat_eq
  rw [lenField_toNat, commandWord_toNat]
  omega

/-- The three fields are the whole word. -/
theorem commandWord_of_rsvField_eq_zero {w : Word} (h : rsvField w = 0) : commandWord (opField w) (lenField w) = w := by
  have hrsv : w.toNat / 16 % 4096 = 0 := by rw [← rsvField_toNat, h]; rfl
  apply BitVec.eq_of_toNat_eq
  rw [commandWord_toNat, opField_toNat, lenField_toNat]
  omega

/-! ## The decoder -/

/-- A word decodes to a command exactly when it is the command's word and the data operand beside it the command's. -/
theorem decode_eq_ok_iff (w : Word) (data : Bytes) (i : Instr) :
    decode w data = .ok i ↔ encode i = w ∧ ∀ len d, i = .transmit len d → d = data := by
  constructor
  · intro h
    unfold decode at h
    split_ifs at h with hrsv hop hlen hop hop hlen <;> cases h
    all_goals
      have hw := commandWord_of_rsvField_eq_zero hrsv
      simp only [hop] at hw
    · exact ⟨by rw [← hw, hlen, encode], nofun⟩
    · exact ⟨hw, fun _ _ h => by cases h; rfl⟩
    · exact ⟨by rw [← hw, hlen, encode], nofun⟩
  · rintro ⟨rfl, hdata⟩
    cases i with
    | attach => simp [decode, encode]
    | transmit len d => simp [decode, encode, hdata len d rfl]
    | receive => simp [decode, encode]

theorem decode_encode (i : Instr) : decode (encode i) (operandOf i) = .ok i :=
  (decode_eq_ok_iff ..).2 ⟨rfl, fun _ _ h => by rw [h, operandOf]⟩

/-- Which words are legal does not depend on the data operand: they are the words of the commands. -/
theorem exists_decode_eq_ok_iff (w : Word) (data : Bytes) : (∃ i, decode w data = .ok i) ↔ ∃ i, encode i = w := by
  simp only [decode_eq_ok_iff]
  constructor
  · exact fun ⟨i, hw, _⟩ => ⟨i, hw⟩
  · rintro ⟨_ | ⟨len, d⟩ | _, hw⟩
    · exact ⟨.attach, hw, nofun⟩
    · exact ⟨.transmit len data, hw, fun _ _ h => by cases h; rfl⟩
    · exact ⟨.receive, hw, nofun⟩

theorem exists_encode_eq_iff (w : Word) :
    (∃ i, encode i = w) ↔ w = 0x00000001 ∨ w = 0x00000003 ∨ ∃ len : Half, w = commandWord 2 len := by
  constructor
  · rintro ⟨_ | ⟨len, d⟩ | _, rfl⟩
    · exact .inl rfl
    · exact .inr (.inr ⟨len, rfl⟩)
    · exact .inr (.inl rfl)
  · rintro (rfl | rfl | ⟨len, rfl⟩)
    · exact ⟨.attach, rfl⟩
    · exact ⟨.receive, rfl⟩
    · exact ⟨.transmit len [], rfl⟩

/-! ## The opcode table (R114) -/

/-- Under the mask of TRANSMIT's row a word keeps `OP` and `RSV`. -/
theorem and_lowMask_toNat (w : Word) : (w &&& 0x0000FFFF).toNat = w.toNat % 65536 := by
  rw [BitVec.toNat_and]
  exact Nat.and_two_pow_sub_one_eq_mod w.toNat 16

theorem and_lowMask_eq_two_iff (w : Word) : w &&& 0x0000FFFF = 2 ↔ ∃ len : Half, w = commandWord 2 len := by
  rw [BitVec.toNat_eq, and_lowMask_toNat, show (2 : Word).toNat = 2 from rfl]
  constructor
  · intro h
    refine ⟨lenField w, BitVec.eq_of_toNat_eq ?_⟩
    rw [commandWord_toNat, lenField_toNat, show (2 : BitVec 4).toNat = 2 from rfl]
    omega
  · rintro ⟨len, rfl⟩
    rw [commandWord_toNat, show (2 : BitVec 4).toNat = 2 from rfl]
    omega

theorem exists_row_accepts_iff (w : Word) :
    (∃ r ∈ opcodeTable, r.accepts w = true) ↔
      w = 0x00000001 ∨ w = 0x00000003 ∨ ∃ len : Half, w = commandWord 2 len := by
  have hfull : w &&& 0xFFFFFFFF = w := BitVec.and_allOnes
  simp only [opcodeTable, List.exists_mem_cons_iff, List.not_mem_nil, false_and, exists_false, or_false, Row.accepts,
    beq_iff_eq, hfull, and_lowMask_eq_two_iff]
  rw [or_comm (a := w = 3)]

/-- A row that a word matches has the word's `OP` and `RSV` for its pattern. -/
theorem Row.pattern_of_accepts {r : Row} (hr : r ∈ opcodeTable) {w : Word} (h : r.accepts w = true) :
    r.pattern = w &&& 0x0000FFFF := by
  have hmask : ∀ r ∈ opcodeTable, r.mask &&& 0x0000FFFF = 0x0000FFFF ∧ r.pattern &&& 0x0000FFFF = r.pattern := by decide
  obtain ⟨hlow, hpattern⟩ := hmask r hr
  have hw : w &&& r.mask = r.pattern := beq_iff_eq.1 h
  rw [← hpattern, ← hw, BitVec.and_assoc, hlow]

theorem Row.eq_of_accepts {r q : Row} (hr : r ∈ opcodeTable) (hq : q ∈ opcodeTable) {w : Word}
    (hrw : r.accepts w = true) (hqw : q.accepts w = true) : r = q := by
  have hinj : ∀ r ∈ opcodeTable, ∀ q ∈ opcodeTable, r.pattern = q.pattern → r = q := by decide
  exact hinj r hr q hq ((Row.pattern_of_accepts hr hrw).trans (Row.pattern_of_accepts hq hqw).symm)

end Sys2Proof
end

section
/-! How a host command ends (R116 to R118, R296): one response, or a refusal. -/

namespace Sys2Proof.Machine

/-! ## The response word: laid out as a command word is, with `CODE` for `OP` and `RLEN` for `LEN` (R116) -/

@[simp] theorem Response.code_responseWord (c : ResultCode) (n : Half) (data : Bytes) :
    Response.code ⟨responseWord c n, data⟩ = c.code :=
  opField_commandWord c.code n

@[simp] theorem Response.rlen_responseWord (c : ResultCode) (n : Half) (data : Bytes) :
    Response.rlen ⟨responseWord c n, data⟩ = n :=
  lenField_commandWord c.code n

theorem responseWord_rsv (c : ResultCode) (n : Half) : (responseWord c n).extractLsb' 4 12 = 0 :=
  rsvField_commandWord c.code n

theorem ResultCode.code_range (c : ResultCode) : c.code.toNat ≤ 4 ∨ c.code.toNat = 15 := by
  cases c <;> decide

/-! ## Answers -/

/-- From `s` to `t` the host has been sent the one response `r`, and nothing has been refused. -/
def State.Answers (s t : State) (r : Response) : Prop := t.responses = s.responses ++ [r] ∧ t.refused = s.refused

/-- From `s` to `t` the host has been sent a result code alone. -/
def State.AnswersCode (s t : State) : Prop := ∃ c, s.Answers t ⟨responseWord c 0, []⟩

theorem State.answersCode_result (s : State) (c : ResultCode) : s.AnswersCode (s.result c) := ⟨c, rfl, rfl⟩

theorem State.answersCode_fault (s : State) (k : Fault) : s.AnswersCode (s.fault k) := ⟨.faulted, rfl, rfl⟩

theorem State.answersCode_attachOk (s : State) : s.AnswersCode s.attachOk :=
  ⟨.ok, by simp only [State.Answers, attachOk_rest, and_self]⟩

theorem State.answersCode_transmitOk (s : State) (len : Half) (data : Bytes) : s.AnswersCode (s.transmitOk len data) :=
  ⟨.ok, by simp only [State.Answers, transmitOk_rest, and_self]⟩

/-- A code alone is a well-formed response to any command: whatever `P` asks of a length or of data, it has neither. -/
theorem State.AnswersCode.wellFormed {s t : State} (h : s.AnswersCode t) (P : Response → Prop) :
    ∃ r : Response, t.responses = s.responses ++ [r] ∧ t.refused = s.refused ∧ r.word.extractLsb' 4 12 = 0 ∧
      (r.code.toNat ≤ 4 ∨ r.code.toNat = 15) ∧ (r.rlen ≠ 0 ∨ r.data ≠ [] → P r) := by
  obtain ⟨c, hresp, hrefused⟩ := h
  exact ⟨_, hresp, hrefused, responseWord_rsv c 0, by simpa using c.code_range, by simp⟩

/-- ATTACH answers a code, or is refused (R165). -/
theorem attach_answers (s : State) : s.AnswersCode s.attach ∨ s.attach = s.refuse .platformInvalid := by
  rcases attach_cases s with ⟨_, e⟩ | ⟨_, _, e⟩ | ⟨_, _, e⟩ | ⟨_, _, _, e⟩ | ⟨_, _, _, e⟩ <;> rw [e]
  · exact .inr rfl
  · exact .inl (s.answersCode_fault _)
  · exact .inl (s.answersCode_fault _)
  · exact .inl ⟨.deviceAttachFailure, rfl, rfl⟩
  · exact .inl s.answersCode_attachOk

/-- TRANSMIT answers a code, or is refused for want of data (R115). -/
theorem transmit_answers (s : State) (len : Half) (data : Bytes) :
    s.AnswersCode (s.transmit len data) ∨
      (len.toNat < Config.maxFrame ∧ data.length < len.toNat ∧ s.transmit len data = s.refuse .hostDataShort) := by
  rcases transmit_cases s len data with ⟨_, e⟩ | ⟨_, e⟩ | ⟨_, _, e⟩ | ⟨_, hlen, hdata, e⟩ | ⟨_, _, _, _, e⟩ |
    ⟨_, _, _, _, _, e⟩ | ⟨_, _, _, _, _, e⟩ <;> rw [e]
  · exact .inl (s.answersCode_fault _)
  · exact .inl (s.answersCode_fault _)
  · exact .inl (s.answersCode_result _)
  · exact .inr ⟨hlen, hdata, rfl⟩
  · exact .inl (s.answersCode_result _)
  · exact .inl ((s.raise .txWindowCollapse).answersCode_transmitOk len data)
  · exact .inl (s.answersCode_transmitOk len data)

/-- RECEIVE answers a code, or OK with as many bytes as RLEN says (R118). -/
theorem receive_answers (s : State) :
    s.AnswersCode s.receive ∨
      ∃ (n : Half) (data : Bytes), data.length = n.toNat ∧ s.Answers s.receive ⟨responseWord .ok n, data⟩ := by
  rcases receive_cases s with ⟨_, e⟩ | ⟨_, e⟩ | ⟨_, _, e⟩ | ⟨_, _, _, e⟩ | ⟨_, _, _, e⟩ <;> rw [e]
  · exact .inl (s.answersCode_fault _)
  · exact .inl (s.answersCode_fault _)
  · exact .inl (s.answersCode_result _)
  · exact .inl (s.answersCode_fault _)
  · refine .inr ⟨(s.rxDesc s.rxCursor).length, s.rxBuf s.rxCursor 0 (s.rxDesc s.rxCursor).length.toNat, ?_, ?_⟩
    · rw [State.rxBuf, Memory.length_bytes, Nat.sub_zero]
    · simp only [State.Answers, receiveOk_rest, and_self]

/-! ## Commands and labels -/

theorem exec_transmit (s : State) (len : Half) (data : Bytes) :
    exec (.transmit len data) s = .next (s.transmit len data) := rfl

theorem exec_receive (s : State) : exec .receive s = .next s.receive := rfl

theorem hostCommand_of_decode_eq_ok {w : Word} {data : Bytes} {i : Instr} (h : decode w data = .ok i) (s : State) :
    hostCommand w data s = exec i s := by
  rw [hostCommand, h]

theorem hostCommand_of_decode_eq_error {w : Word} {data : Bytes} {e : DecodeError} (h : decode w data = .error e)
    (s : State) : hostCommand w data s = .next (s.fault .illegalCommand) := by
  rw [hostCommand, h]

/-- HOST issues a command by its word and its data operand (R305). -/
theorem hostCommand_encode (i : Instr) (s : State) : hostCommand (encode i) (operandOf i) s = exec i s :=
  hostCommand_of_decode_eq_ok (decode_encode i) s

theorem dropLabel_of_pending_cons {s : State} {l : Label} {rest : List Label} (h : s.pending = l :: rest) :
    s.dropLabel = { s with pending := rest } := by
  rw [State.dropLabel, h, List.tail_cons]

/-! ## Host programs (R128) -/

theorem newResponse_of_answers {s t : State} {r : Response} (h : s.Answers t r) : newResponse s t = some r := by
  rw [newResponse, h.1, List.drop_left, List.head?_cons]

/-- An answered line stays the current one exactly while its loop condition holds of the answer. -/
theorem HostProgram.step_of_answers {s t : State} {l : AsmLine} {r : Response} (hnone : s.refused = none)
    (hrun : runLabel l.label s = .next t) (hans : s.Answers t r) (rest : List AsmLine) :
    HostProgram.step ⟨s, l :: rest⟩ = .next ⟨t, if l.repeats r then l :: rest else rest⟩ := by
  simp only [HostProgram.step, hnone, hrun, newResponse_of_answers hans]

end Sys2Proof.Machine
end

section
/-! `MemRead` of a field (R81, R84, R125). -/

namespace Sys2Proof.Machine

theorem leBytes_leNat (bs : Bytes) : leBytes bs.length (leNat bs) = bs := by
  induction bs with
  | nil => rfl
  | cons b bs ih =>
    have hb := b.isLt
    have hdiv : (b.toNat + 256 * leNat bs) / 256 = leNat bs := by omega
    rw [List.length_cons, leNat, leBytes, hdiv, ih]
    congr 1
    apply BitVec.eq_of_toNat_eq
    rw [BitVec.toNat_ofNat]
    omega

theorem leBytes_one_toNat (b : Byte) : leBytes 1 b.toNat = [b] := by
  simp [leBytes]

/-- A field of `n` whole bytes holds all that its bytes say. -/
theorem Memory.bytes_eq_leBytes_field (m : Memory) (a n : Nat) : m.bytes a n = leBytes n (m.field (8 * n) a).toNat := by
  have hlt : leNat (m.bytes a n) < 2 ^ (8 * n) := by
    simpa [pow_mul] using leNat_lt (m.bytes a n)
  have hback := leBytes_leNat (m.bytes a n)
  rw [Memory.length_bytes] at hback
  rw [Memory.field, Nat.mul_div_cancel_left n (by decide), BitVec.toNat_ofNat, Nat.mod_eq_of_lt hlt, hback]

theorem State.memRead_txField (s : State) {i : Nat} (hi : i < Config.txCap) (f : TxField) :
    s.memRead .txd (txAt i f) f.bytes = some (leBytes f.bytes (s.txd.field (8 * f.bytes) (txAt i f)).toNat) := by
  rw [s.memRead_eq (by decide), if_pos (txAt_add_le hi f), Memory.bytes_eq_leBytes_field]
  rfl

theorem State.memRead_rxField (s : State) {i : Nat} (hi : i < Config.rxCap) (f : RxField) :
    s.memRead .rxd (rxAt i f) f.bytes = some (leBytes f.bytes (s.rxd.field (8 * f.bytes) (rxAt i f)).toNat) := by
  rw [s.memRead_eq (by decide), if_pos (rxAt_add_le hi f), Memory.bytes_eq_leBytes_field]
  rfl

end Sys2Proof.Machine
end

section
/-! The statements on the encoding, on the answers to commands and on the descriptor formats. -/

namespace Sys2Proof.Machine

/-- Settles O1: `decode_encode`. -/
theorem decodeEncode : Obligations.DecodeEncode :=
  decode_encode

/-- Settles O2: one direction of `decode_eq_ok_iff`. -/
theorem encodeDecode : Obligations.EncodeDecode :=
  fun w data i => (decode_eq_ok_iff w data i).1

/-- Settles O3: the words that decode, those of the commands and those that match a row are one set. -/
theorem legalWords : Obligations.LegalWords := by
  intro w data s
  have hwords := (exists_decode_eq_ok_iff w data).trans (exists_encode_eq_iff w)
  refine ⟨hwords.trans (exists_row_accepts_iff w).symm, fun _ hr _ hq => Row.eq_of_accepts hr hq, hwords,
    fun hillegal => ?_⟩
  cases hdec : decode w data with
  | ok i => exact absurd hdec (hillegal i)
  | error e => exact hostCommand_of_decode_eq_error hdec s

/-- Settles O4, by evaluating the decoder on the twelve words. -/
theorem sampleWords : Obligations.SampleWords := by
  unfold Obligations.SampleWords
  decide

/-- Settles O6: with no refusal mark the label the schedule names is run. -/
theorem stepRunsOtherLabels : Obligations.StepRunsOtherLabels := by
  intro s rest hnone
  have hrun {l : Label} (hp : s.pending = l :: rest) : step s = runLabel l { s with pending := rest } := by
    rw [step_of_pending_cons hnone hp, dropLabel_of_pending_cons hp]
  exact ⟨hrun, fun _ _ => hrun, fun w data e hp hdec => (hrun hp).trans (hostCommand_of_decode_eq_error hdec _),
    step_of_pending_nil hnone⟩

/-- Settles O8: a command answers a code alone or is refused, and RECEIVE's OK answers with its data. -/
theorem everyCommandAnsweredOnce : Obligations.EveryCommandAnsweredOnce := by
  intro w data s
  obtain ⟨t, ht⟩ := runLabel_next (.host w data) s
  refine ⟨t, ht, ?_⟩
  rcases hostCommand_cases w data s t ht with ⟨_, _, rfl⟩ | ⟨_, rfl⟩ | ⟨len, d, _, rfl⟩ | ⟨hdec, rfl⟩
  · exact .inl ((s.answersCode_fault _).wellFormed _)
  · exact (attach_answers s).imp (·.wellFormed _) fun hrefuse => ⟨_, hrefuse⟩
  · exact (transmit_answers s len d).imp (·.wellFormed _) fun ⟨_, _, hrefuse⟩ => ⟨_, hrefuse⟩
  · rcases receive_answers s with hcode | ⟨n, bytes, hbytes, hresp, hrefused⟩
    · exact .inl (hcode.wellFormed _)
    · exact .inl ⟨_, hresp, hrefused, responseWord_rsv .ok n, .inl (by simp [ResultCode.code]),
        fun _ => ⟨hdec, by simp [ResultCode.code], by simpa using hbytes⟩⟩

/-- Settles O21: of the ways TRANSMIT can end, the conditions leave one. -/
theorem transmitShortData : Obligations.TransmitShortData := by
  intro s len data hmode hlen hshort
  have hrefuse : s.transmit len data = s.refuse .hostDataShort := by
    rcases transmit_cases s len data with ⟨hun, _⟩ | ⟨hfailed, _⟩ | ⟨_, hlong, _⟩ | ⟨_, _, _, e⟩ | ⟨_, _, hdata, _⟩ |
      ⟨_, _, hdata, _⟩ | ⟨_, _, hdata, _⟩
    · exact nomatch hmode.symm.trans hun
    · exact nomatch hmode.symm.trans hfailed
    · exact absurd hlen hlong.not_gt
    · exact e
    all_goals exact absurd hshort hdata.not_gt
  rw [exec_transmit, hrefuse]
  rfl

/-- Settles O38: each field lies inside its ring, and its bytes are its value's. -/
theorem descriptorBytes : Obligations.DescriptorBytes := by
  intro s i
  refine ⟨fun hi => ?_, fun hi => ?_⟩
  · have htx := s.memRead_txField hi
    exact ⟨htx .addr, htx .length, (htx .cso).trans (congrArg some (leBytes_one_toNat _)),
      (htx .cmd).trans (congrArg some (leBytes_one_toNat _)), (htx .status).trans (congrArg some (leBytes_one_toNat _)),
      (htx .css).trans (congrArg some (leBytes_one_toNat _)), htx .special⟩
  · have hrx := s.memRead_rxField hi
    exact ⟨hrx .addr, hrx .length, hrx .checksum, (hrx .status).trans (congrArg some (leBytes_one_toNat _)),
      (hrx .errors).trans (congrArg some (leBytes_one_toNat _)), hrx .special⟩

/-- Settles O58: both commands are answered, and the loop condition is on the answer's code. -/
theorem pseudoInstructionLoops : Obligations.PseudoInstructionLoops := by
  intro s rest hnone
  constructor
  · obtain ⟨r, hans⟩ : ∃ r, s.Answers s.receive r :=
      (receive_answers s).elim (fun ⟨_, h⟩ => ⟨_, h⟩) fun ⟨_, _, _, h⟩ => ⟨_, h⟩
    refine ⟨s.receive, r, exec_receive s, hans.1, ?_⟩
    rw [HostProgram.step_of_answers hnone (l := .receivePoll) (hostCommand_encode .receive s) hans]
    simp [AsmLine.repeats, ResultCode.code]
  · intro len data hdata
    obtain ⟨c, hans⟩ | ⟨hlen, hshort, -⟩ := transmit_answers s len data
    · refine ⟨s.transmit len data, _, exec_transmit s len data, hans.1, ?_⟩
      rw [HostProgram.step_of_answers hnone (l := .transmitRetry len data) (hostCommand_encode (.transmit len data) s)
        hans]
      simp [AsmLine.repeats, ResultCode.code]
    · simp only [Config.maxFrame] at hlen
      omega

end Sys2Proof.Machine
end

section
/-! ATTACH on a valid platform (R150 to R164): how it ends in each mode, what its OK leaves, and the host commands in
mode FAILED. -/

namespace Sys2Proof.Machine

/-! ## How ATTACH ends, by the mode and STATUS (R151, R153, R163) -/

section
variable {s : State} (hvalid : platformValid s.platform = true)
include hvalid

theorem attach_of_attached (hmode : s.mode = .attached) : s.attach = s.fault .reattach := by
  simpa [hvalid, hmode] using attach_cases s

theorem attach_of_failed (hmode : s.mode = .failed) : s.attach = s.fault .useAfterAttachFailure := by
  simpa [hvalid, hmode] using attach_cases s

theorem attach_of_status_ne (hmode : s.mode = .unattached) (hstatus : s.reg .status ≠ Config.statusSignature) :
    s.attach = (s.setMode .failed).result .deviceAttachFailure := by
  simpa [hvalid, hmode, hstatus] using attach_cases s

theorem attach_of_status_eq (hmode : s.mode = .unattached) (hstatus : s.reg .status = Config.statusSignature) :
    s.attach = s.attachOk := by
  simpa [hvalid, hmode, hstatus] using attach_cases s

end

/-! ## Mode FAILED (R151, R293) -/

theorem transmit_of_failed {s : State} (hmode : s.mode = .failed) (len : Half) (data : Bytes) :
    s.transmit len data = s.fault .useAfterAttachFailure := by
  simpa [hmode] using transmit_cases s len data

theorem receive_of_failed {s : State} (hmode : s.mode = .failed) : s.receive = s.fault .useAfterAttachFailure := by
  simpa [hmode] using receive_cases s

/-- In mode FAILED every command raises one and the same fault; only ATTACH looks at the platform first (R300). -/
theorem exec_of_failed {s : State} (hvalid : platformValid s.platform = true) (hmode : s.mode = .failed) (i : Instr) :
    exec i s = .next (s.fault .useAfterAttachFailure) := by
  cases i with
  | attach => rw [exec_attach, attach_of_failed hvalid hmode]
  | transmit len data => rw [exec_transmit, transmit_of_failed hmode]
  | receive => rw [exec_receive, receive_of_failed hmode]

/-! ## An engine whose EN bit is 0 may not step (R196, R237) -/

theorem txeEnabled_eq_false_of_en {s : State} (h : (s.reg .tctl).getLsbD 1 = false) : s.txeEnabled = false := by
  rw [State.txeEnabled, show s.txEnable = false from h, Bool.false_and]

theorem rxeEnabled_eq_false_of_en {s : State} (h : (s.reg .rctl).getLsbD 1 = false) : s.rxeEnabled = false := by
  rw [State.rxeEnabled, show s.rxEnable = false from h, Bool.false_and]

/-! ## What ATTACH's OK leaves -/

theorem txBufAddrOf_eq_getElem (p : Platform) {i : Nat} (hi : i < Config.txCap) : txBufAddrOf p i = p.txBufAddr[i] := by
  simp [txBufAddrOf, hi]

theorem rxBufAddrOf_eq_getElem (p : Platform) {i : Nat} (hi : i < Config.rxCap) : rxBufAddrOf p i = p.rxBufAddr[i] := by
  simp [rxBufAddrOf, hi]

/-! ## The obligations -/

/-- Settles O11: the registers by `attachOk_reg`, each descriptor by what the rings are initialised to, the rest by
`attachOk_rest`. -/
theorem attachLaunchState : Obligations.AttachLaunchState := by
  intro s hvalid hmode hstatus
  obtain ⟨-, -, htxb, hrxb, hattached, haccum, hlog, hfaults, hrefused, hpending, hplatform, hresponses⟩ :=
    attachOk_rest s
  have hreg := attachOk_reg s
  refine ⟨s.attachOk, ?exec, hattached,
    hreg .tdbal, hreg .tdbah, hreg .tdlen, hreg .tdh, hreg .tdt, hreg .tctl, (hreg .tipg).trans ?tipg,
    hreg .rdbal, hreg .rdbah, hreg .rdlen, hreg .rdh, hreg .rdt, hreg .rctl, hreg .ral, hreg .rah,
    hreg .ctrl, (hreg .status).trans hstatus, fun i hi => ?txDesc, fun i hi => ?rxDesc, fun a => ?txb, fun a => ?rxb,
    haccum, hlog, hfaults, hrefused, hplatform, hpending, hresponses⟩
  case exec => rw [exec_attach, attach_of_status_eq hvalid hmode hstatus]
  case tipg => cases s.platform.tipgInit <;> rfl
  case txDesc => rw [attachOk_txDesc s i hi, txDescInit, txBufAddrOf_eq_getElem s.platform hi]; rfl
  case rxDesc => rw [attachOk_rxDesc s i hi, rxDescInit, rxBufAddrOf_eq_getElem s.platform hi]
  case txb => rw [htxb, Memory.read_zeros]
  case rxb => rw [hrxb, Memory.read_zeros]

/-- Settles O12: ATTACH writes the mode and its answer, so the EN bits and the platform, still valid, are as before. -/
theorem attachStatusMismatch : Obligations.AttachStatusMismatch := by
  intro s hvalid hmode hstatus
  refine ⟨(s.setMode .failed).result .deviceAttachFailure, ?exec, rfl, txeEnabled_eq_false_of_en,
    rxeEnabled_eq_false_of_en, fun u hfailed hplatform => exec_of_failed ?valid hfailed⟩
  case exec => rw [exec_attach, attach_of_status_ne hvalid hmode hstatus]
  case valid => exact (congrArg platformValid hplatform).trans hvalid

/-- Settles O13: the platform passes the check, and the mode names the fault. -/
theorem attachOnlyOnce : Obligations.AttachOnlyOnce := by
  refine fun s hvalid => ⟨fun hmode => ?_, fun hmode => ?_⟩
  · rw [exec_attach, attach_of_attached hvalid hmode]
    rfl
  · exact exec_of_failed hvalid hmode .attach

end Sys2Proof.Machine
end

section
/-! How TRANSMIT ends (R180 to R186): accepted, which writes its slot and TDT, or turned away with a code or a refusal,
which writes neither. -/

namespace Sys2Proof.Machine

/-! ## Accepted or turned away -/

/-- TRANSMIT of these operands is answered OK: R300's checks pass and the candidate slot is free (R182, R183). -/
structure State.Accepts (s : State) (len : Half) (data : Bytes) : Prop where
  attached : s.mode = .attached
  allowed : len.toNat < Config.maxFrame
  enough : len.toNat ≤ data.length
  free : s.txDone s.txCandidate = true

/-- CODE 0 is OK's alone (R117). -/
theorem ResultCode.code_eq_ok_iff {c : ResultCode} : c.code = ResultCode.ok.code ↔ c = .ok := by
  cases c <;> decide

/-- From `s` to `t` a command has changed nothing but the refusal mark, or nothing but the fault set while answering a code
alone that is not OK. -/
def State.TurnedAway (s t : State) : Prop :=
  (∃ reason, t = s.refuse reason) ∨
  ∃ f c, c ≠ ResultCode.ok ∧ t = { s with faults := f, responses := s.responses ++ [⟨responseWord c 0, []⟩] }

theorem State.turnedAway_refuse (s : State) (reason : RefuseReason) : s.TurnedAway (s.refuse reason) :=
  .inl ⟨reason, rfl⟩

theorem State.turnedAway_result (s : State) {c : ResultCode} (hc : c ≠ .ok) : s.TurnedAway (s.result c) :=
  .inr ⟨s.faults, c, hc, rfl⟩

theorem State.turnedAway_fault (s : State) (k : Fault) : s.TurnedAway (s.fault k) :=
  .inr ⟨s.faults.add k, .faulted, by decide, rfl⟩

theorem State.txCandidate_eq (s : State) : s.txCandidate = ((s.reg .tdt).toNat + 1) % 64 := rfl

/-- The fault set after an accepted TRANSMIT: the collapse is marked where the candidate slot is the head slot (R185). -/
def State.faultsAccepted (s : State) : FaultSet :=
  if s.txCandidate = (s.reg .tdh).toNat then s.faults.add .txWindowCollapse else s.faults

/-- The mark apart, TRANSMIT's OK is one and the same whether or not the window collapses. -/
theorem transmit_of_accepts {s : State} {len : Half} {data : Bytes} (h : s.Accepts len data) :
    s.transmit len data = { s.transmitOk len data with faults := s.faultsAccepted } := by
  obtain ⟨hmode, hlen, hdata, hfree⟩ := h
  have hcoll : s.txCollapses = decide (s.txCandidate = (s.reg .tdh).toNat) := rfl
  simp only [State.transmit, hmode, if_neg hlen.not_ge, if_neg hdata.not_gt, hfree, hcoll, State.faultsAccepted]
  by_cases hc : s.txCandidate = (s.reg .tdh).toNat
  · rw [decide_eq_true hc, if_pos hc]
    rfl
  · rw [decide_eq_false hc, if_neg hc, ← transmitOk_faults s len data]
    rfl

/-- TRANSMIT that is not accepted is turned away. -/
theorem transmit_turnedAway {s : State} {len : Half} {data : Bytes} (h : ¬s.Accepts len data) :
    s.TurnedAway (s.transmit len data) := by
  rcases transmit_cases s len data with ⟨_, e⟩ | ⟨_, e⟩ | ⟨_, _, e⟩ | ⟨_, _, _, e⟩ | ⟨_, _, _, _, e⟩ |
    ⟨hmode, hlen, hdata, hfree, _⟩ | ⟨hmode, hlen, hdata, hfree, _⟩
  · exact e ▸ s.turnedAway_fault _
  · exact e ▸ s.turnedAway_fault _
  · exact e ▸ s.turnedAway_result (by decide)
  · exact e ▸ s.turnedAway_refuse _
  · exact e ▸ s.turnedAway_result (by decide)
  all_goals exact absurd ⟨hmode, hlen, hdata, hfree⟩ h

/-- The answer of an accepted TRANSMIT. -/
theorem transmit_responses_of_accepts {s : State} {len : Half} {data : Bytes} (h : s.Accepts len data) :
    (s.transmit len data).responses = s.responses ++ [⟨responseWord .ok 0, []⟩] := by
  rw [transmit_of_accepts h]
  simp only [transmitOk_rest]

section
variable {s : State} {len : Half} {data : Bytes} (hmode : s.mode = .attached)
include hmode

theorem transmit_of_tooLarge (hlen : Config.maxFrame ≤ len.toNat) :
    s.transmit len data = s.result .packetTooLarge := by
  simp only [State.transmit, hmode, if_pos hlen]

theorem transmit_of_ringFull (hlen : len.toNat < Config.maxFrame) (hdata : len.toNat ≤ data.length)
    (hpending : s.txDone s.txCandidate = false) : s.transmit len data = s.result .ringFull := by
  simp only [State.transmit, hmode, if_neg hlen.not_ge, if_neg hdata.not_gt, hpending, Bool.not_false, if_true]

end

/-! ## The answers, as the statements on the protocol say them -/

theorem State.Accepts.exec_ok {s : State} {len : Half} {data : Bytes} (h : s.Accepts len data) :
    ∃ (t : State) (r : Response), exec (.transmit len data) s = .next t ∧ t.responses = s.responses ++ [r] ∧ r.code = 0 :=
  ⟨_, _, exec_transmit s len data, transmit_responses_of_accepts h, Response.code_responseWord ..⟩

theorem exec_transmit_ringFull {s : State} {len : Half} {data : Bytes} (hmode : s.mode = .attached)
    (hlen : len.toNat < Config.maxFrame) (hdata : len.toNat ≤ data.length) (hpending : s.txDone s.txCandidate = false) :
    ∃ (t : State) (r : Response), exec (.transmit len data) s = .next t ∧ t.responses = s.responses ++ [r] ∧ r.code = 2 := by
  rw [exec_transmit, transmit_of_ringFull hmode hlen hdata hpending]
  exact ⟨_, _, rfl, rfl, Response.code_responseWord ..⟩

/-! ## What TRANSMIT's OK writes, byte by byte (R183) -/

/-- The descriptor that an accepted TRANSMIT leaves in its slot (R183). -/
theorem transmitOk_txDesc_candidate (s : State) (len : Half) (data : Bytes) :
    (s.transmitOk len data).txDesc s.txCandidate =
      { s.txDesc s.txCandidate with
        length := len, status := (s.txDesc s.txCandidate).status &&& 0xFE, cmd := 0x09 } := by
  rw [transmitOk_txDesc, if_pos rfl]
  rfl

theorem transmitOk_txDesc_other (s : State) (len : Half) (data : Bytes) {i : Nat} (hi : i ≠ s.txCandidate) :
    (s.transmitOk len data).txDesc i = s.txDesc i := by
  rw [transmitOk_txDesc, if_neg hi]

/-- The bytes of TXB outside the packet (R183). -/
theorem transmitOk_txb_read (s : State) (len : Half) (data : Bytes) {a : Nat}
    (ha : a < txBufAt s.txCandidate ∨ txBufAt s.txCandidate + len.toNat ≤ a) :
    (s.transmitOk len data).txb.read a = s.txb.read a := by
  have hpacket := packetOf_length_le len data
  rw [transmitOk_txb, Memory.read_writeBytes_other]
  omega

/-- The bytes of TXD outside the three fields that R183 writes. -/
theorem transmitOk_txd_read (s : State) (len : Half) (data : Bytes) {a : Nat}
    (h0 : a ≠ txAt s.txCandidate .length) (h1 : a ≠ txAt s.txCandidate .length + 1)
    (h2 : a ≠ txAt s.txCandidate .cmd) (h3 : a ≠ txAt s.txCandidate .status) :
    (s.transmitOk len data).txd.read a = s.txd.read a := by
  rw [transmitOk_txd, Memory.read_setField_other, Memory.read_setField_other, Memory.read_setField_other]
  all_goals omega

end Sys2Proof.Machine
end

section
/-! What the operations of the two sides and the labels leave (R186, R197 to R199, R226, R227, R240, R241), and which labels
are accepted TRANSMITs. -/

namespace Sys2Proof.Machine

/-! ## What each operation leaves of the registers and the mode -/

@[simp] theorem attachOk_mode (s : State) : s.attachOk.mode = .attached := by
  simp only [attachOk_rest]

theorem State.TurnedAway.reg {s t : State} (h : s.TurnedAway t) (r : Reg) : t.reg r = s.reg r := by
  obtain ⟨_, rfl⟩ | ⟨_, _, _, rfl⟩ := h <;> rfl

theorem State.TurnedAway.sameTx {s t : State} (h : s.TurnedAway t) : s.SameTx t := by
  obtain ⟨_, rfl⟩ | ⟨_, _, _, rfl⟩ := h <;> exact ⟨fun _ _ => rfl, rfl, rfl, rfl, rfl⟩

theorem transmit_reg_other (s : State) (len : Half) (data : Bytes) {r : Reg} (hr : r ≠ .tdt) :
    (s.transmit len data).reg r = s.reg r := by
  by_cases h : s.Accepts len data
  · rw [transmit_of_accepts h]
    exact (transmitOk_reg s len data r).trans (if_neg hr)
  · exact (transmit_turnedAway h).reg r

/-- RECEIVE delivers the frame at the consumption index or is turned away. -/
theorem receive_outcomes (s : State) : s.receive = s.receiveOk s.rxCursor ∨ s.TurnedAway s.receive := by
  rcases receive_cases s with ⟨_, e⟩ | ⟨_, e⟩ | ⟨_, _, e⟩ | ⟨_, _, _, e⟩ | ⟨_, _, _, e⟩ <;> rw [e]
  · exact .inr (s.turnedAway_fault _)
  · exact .inr (s.turnedAway_fault _)
  · exact .inr (s.turnedAway_result (by decide))
  · exact .inr (s.turnedAway_fault _)
  · exact .inl rfl

theorem receive_reg_other (s : State) {r : Reg} (hr : r ≠ .rdt) : s.receive.reg r = s.reg r := by
  obtain e | h := receive_outcomes s
  · rw [e, receiveOk_reg, if_neg hr]
  · exact h.reg r

theorem txeDrain_reg_other (s : State) {r : Reg} (hr : r ≠ .tdh) : s.txeDrain.reg r = s.reg r := by
  obtain ⟨_, e⟩ | ⟨_, _, e⟩ | ⟨_, _, _, e⟩ := txeDrain_cases s <;> rw [e]
  · rfl
  · rw [drainSlot_reg, if_neg hr]

theorem rxeFill_reg_other (s : State) (frame : Bytes) (draw : RxDraw) {r : Reg} (hr : r ≠ .rdh) :
    (s.rxeFill frame draw).reg r = s.reg r := by
  obtain ⟨_, e⟩ | ⟨_, _, _, e⟩ | ⟨_, _, _, _, e⟩ := rxeFill_cases s frame draw <;> rw [e]
  · rfl
  · rw [fillSlot_reg, if_neg hr]

/-! ## The sides leave each other -/

/-- An operation that is independent of the RX side leaves it. -/
theorem IndependentOfRx.sameRx {f : State → State} (hf : IndependentOfRx f) (s : State) : s.SameRx (f s) :=
  ⟨fun _ => hf.reg s, hf.rxd s, hf.rxb s⟩

theorem rxeFill_sameTx (s : State) (frame : Bytes) (draw : RxDraw) : s.SameTx (s.rxeFill frame draw) := by
  refine ⟨fun r hr => rxeFill_reg_other s frame draw (by rintro rfl; exact absurd hr (by decide)), ?_⟩
  obtain ⟨_, e⟩ | ⟨_, _, _, e⟩ | ⟨_, _, _, _, e⟩ := rxeFill_cases s frame draw <;> rw [e]
  · exact ⟨rfl, rfl, rfl, rfl⟩
  · exact ⟨rfl, rfl, rfl, rfl⟩
  · obtain ⟨htxd, htxb, -, haccum, hlog, -⟩ := fillSlot_rest s (s.reg .rdh).toNat frame draw
    exact ⟨htxd, htxb, haccum, hlog⟩

theorem receive_sameTx (s : State) : s.SameTx s.receive := by
  obtain e | h := receive_outcomes s
  · obtain ⟨htxd, htxb, -, -, haccum, hlog, -⟩ := receiveOk_rest s s.rxCursor
    exact e ▸ ⟨fun r hr => (receiveOk_reg s _ r).trans (if_neg (by rintro rfl; exact absurd hr (by decide))),
      htxd, htxb, haccum, hlog⟩
  · exact h.sameTx

/-! ## What depends on the TX side alone -/

section
variable {s t : State} (h : s.SameTx t)
include h

theorem State.SameTx.tdh_eq : t.reg .tdh = s.reg .tdh := h.1 .tdh (by decide)

theorem State.SameTx.tdt_eq : t.reg .tdt = s.reg .tdt := h.1 .tdt (by decide)

theorem State.SameTx.txDesc_eq : t.txDesc = s.txDesc := by
  obtain ⟨-, htxd, -⟩ := h
  funext i
  rw [State.txDesc, htxd, State.txDesc]

theorem State.SameTx.txDone_eq : t.txDone = s.txDone := by
  funext i
  rw [State.txDone_eq, State.txDone_eq, h.txDesc_eq]

theorem State.SameTx.txCandidate_eq : t.txCandidate = s.txCandidate := by
  rw [State.txCandidate, h.tdt_eq, State.txCandidate]

theorem State.SameTx.txPacket_eq : t.txPacket = s.txPacket := by
  have hdesc := h.txDesc_eq
  obtain ⟨-, -, htxb, -⟩ := h
  funext i
  simp only [State.txPacket, State.txBuf, hdesc, htxb]

theorem State.SameTx.txLog_eq : t.txLog = s.txLog := by
  obtain ⟨-, -, -, -, hlog⟩ := h
  exact hlog

theorem State.SameTx.txWaiting_eq : t.txWaiting = s.txWaiting := by
  simp only [State.txWaiting, State.txSlots, h.tdh_eq, h.tdt_eq, h.txDone_eq, h.txPacket_eq]

end

/-! ## Labels -/

theorem runLabel_transmit (len : Half) (data : Bytes) (s : State) :
    runLabel (.host (encode (.transmit len data)) data) s = .next (s.transmit len data) :=
  hostCommand_encode (.transmit len data) s

/-- In mode ATTACHED a label is an accepted TRANSMIT, or TXE's, or leaves the TX side. -/
theorem runLabel_tx_cases {l : Label} {s t : State} (hmode : s.mode = .attached) (h : runLabel l s = .next t) :
    (∃ len data, l = .host (encode (.transmit len data)) data ∧ s.Accepts len data ∧ t = s.transmit len data) ∨
    (l = .txeDrain ∧ t = s.txeDrain) ∨ s.SameTx t := by
  cases l with
  | host w data =>
    rcases hostCommand_cases w data s t h with ⟨_, _, rfl⟩ | ⟨_, rfl⟩ | ⟨len, d, hdec, rfl⟩ | ⟨_, rfl⟩
    · exact .inr (.inr (s.turnedAway_fault _).sameTx)
    · rcases attach_cases s with ⟨_, e⟩ | ⟨_, hfailed, _⟩ | ⟨_, _, e⟩ | ⟨_, hun, _⟩ | ⟨_, hun, _⟩
      · exact .inr (.inr (e ▸ (s.turnedAway_refuse _).sameTx))
      · exact nomatch hmode.symm.trans hfailed
      · exact .inr (.inr (e ▸ (s.turnedAway_fault _).sameTx))
      all_goals exact nomatch hmode.symm.trans hun
    · obtain ⟨rfl, hd⟩ := (decode_eq_ok_iff ..).1 hdec
      obtain rfl := hd len d rfl
      by_cases hacc : s.Accepts len d
      · exact .inl ⟨len, d, rfl, hacc, rfl⟩
      · exact .inr (.inr (transmit_turnedAway hacc).sameTx)
    · exact .inr (.inr (receive_sameTx s))
  | txeDrain =>
    cases h
    exact .inr (.inl ⟨rfl, rfl⟩)
  | rxeFill frame draw =>
    cases h
    exact .inr (.inr (rxeFill_sameTx s frame draw))

/-- No label leaves mode ATTACHED (R55). -/
theorem runLabel_mode_of_attached {l : Label} {s t : State} (hmode : s.mode = .attached) (h : runLabel l s = .next t) :
    t.mode = .attached := by
  by_contra hne
  have hchanged : t.mode ≠ s.mode := hmode ▸ hne
  obtain ⟨rfl, -⟩ := runLabel_mode_of_ne h hchanged
  exact nomatch hmode.symm.trans (attach_mode_of_ne hchanged).1

/-- Every operation but ATTACH writes at most its own cursor. -/
theorem runLabel_reg_of_not_attach {l : Label} {s t : State} (hrun : runLabel l s = .next t)
    (hnot : ∀ data, l ≠ .host (encode .attach) data) {r : Reg} (hr : r ∉ [.tdh, .tdt, .rdh, .rdt]) :
    t.reg r = s.reg r := by
  simp only [List.mem_cons, List.not_mem_nil, or_false, not_or] at hr
  obtain ⟨htdh, htdt, hrdh, hrdt⟩ := hr
  cases l with
  | host w data =>
    rcases hostCommand_cases w data s t hrun with ⟨_, _, rfl⟩ | ⟨hdec, _⟩ | ⟨len, d, _, rfl⟩ | ⟨_, rfl⟩
    · rfl
    · exact absurd (by rw [((decode_eq_ok_iff ..).1 hdec).1]) (hnot data)
    · exact transmit_reg_other s len d htdt
    · exact receive_reg_other s hrdt
  | txeDrain =>
    cases hrun
    exact txeDrain_reg_other s htdh
  | rxeFill frame draw =>
    cases hrun
    exact rxeFill_reg_other s frame draw hrdh

theorem State.after_of_runLabel {l : Label} {s t : State} (h : runLabel l s = .next t) : s.after l = t := by
  rw [State.after, h]

/-- A TRANSMIT is answered OK exactly where it meets the conditions. -/
theorem Label.accepted_transmit_iff (len : Half) (data : Bytes) (s : State) :
    Label.accepted (.host (encode (.transmit len data)) data) s = true ↔ s.Accepts len data := by
  have hdec : decode (encode (.transmit len data)) data = .ok (.transmit len data) := decode_encode (.transmit len data)
  simp only [Label.accepted, hdec, State.after_of_runLabel (runLabel_transmit len data s)]
  by_cases hacc : s.Accepts len data
  · simp [newResponse, transmit_responses_of_accepts hacc, hacc]
  · obtain ⟨_, e⟩ | ⟨_, c, hc, e⟩ := transmit_turnedAway hacc
    · simp [newResponse, e, hacc]
    · simpa [newResponse, e, hacc] using mt ResultCode.code_eq_ok_iff.1 hc

theorem Label.eq_transmit_of_accepted {l : Label} {s : State} (h : l.accepted s = true) :
    ∃ len data, l = .host (encode (.transmit len data)) data := by
  cases l with
  | host w data =>
    simp only [Label.accepted] at h
    split at h
    · next len d hdec =>
      obtain ⟨rfl, hd⟩ := (decode_eq_ok_iff ..).1 hdec
      exact ⟨len, d, by rw [hd len d rfl]⟩
    · exact nomatch h
  | txeDrain => exact nomatch h
  | rxeFill frame draw => exact nomatch h

theorem Label.accepted_iff (l : Label) (s : State) :
    l.accepted s = true ↔ ∃ len data, l = .host (encode (.transmit len data)) data ∧ s.Accepts len data := by
  constructor
  · intro h
    obtain ⟨len, data, rfl⟩ := Label.eq_transmit_of_accepted h
    exact ⟨len, data, rfl, (Label.accepted_transmit_iff len data s).1 h⟩
  · rintro ⟨len, data, rfl, hacc⟩
    exact (Label.accepted_transmit_iff len data s).2 hacc

end Sys2Proof.Machine
end

section
/-! The TX ring's protocol (R63, R190, R201, R292, R336): which slots are pending, what TXE does with its head slot, and the
state after a collapse. -/

namespace Sys2Proof.Machine

/-! ## The candidate slot and the head slot -/

/-- An empty window holds no slot (R16). -/
theorem inWindow_self_right (n a i : Nat) : inWindow n a i i = false :=
  decide_eq_false (lt_irrefl _)

/-- In the ring's shape only the head slot can be pending as a candidate: any other lies outside the window and is not the
tail slot. -/
theorem State.TxRing.candidate_eq_head {s : State} (h : s.TxRing) (hpending : s.txDone s.txCandidate = false) :
    s.txCandidate = (s.reg .tdh).toNat := by
  by_contra hne
  have hcand := s.txCandidate_eq
  have hhead := h.head
  have htail := h.tail
  simp only [Config.txCap] at hhead htail
  have hout : inWindow Config.txCap (s.reg .tdh).toNat (s.reg .tdt).toNat s.txCandidate = false := by
    simp only [inWindow, Config.txCap, decide_eq_false_iff_not]
    omega
  exact absurd (hpending.symm.trans (h.others _ s.txCandidate_lt hout (by omega))) (by decide)

/-- Where the candidate slot is the head slot the window is not empty. -/
theorem tdh_ne_tdt_of_candidate_eq_head {s : State} (hhead : s.txCandidate = (s.reg .tdh).toNat) :
    s.reg .tdh ≠ s.reg .tdt := by
  have hcand := s.txCandidate_eq
  intro heq
  rw [heq] at hhead
  omega

/-- The head slot of a window that is not empty is pending or the dummy slot. -/
theorem State.TxRing.head_slot {s : State} (h : s.TxRing) (hne : s.reg .tdh ≠ s.reg .tdt) :
    s.txDone (s.reg .tdh).toNat = false ∨ s.isDummy (s.reg .tdh).toNat := by
  have hne' := BitVec.toNat_ne_iff_ne.2 hne
  have hhead := h.head
  have htail := h.tail
  refine (h.window _ h.head ?_).imp_right And.left
  simp only [inWindow, Config.txCap, decide_eq_true_eq] at *
  omega

/-- In the ring's shape an enabled TXE drains: no length is above the buffer. -/
theorem State.TxRing.txeDrain_eq {s : State} (h : s.TxRing) (hen : s.txeEnabled = true) :
    s.txeDrain = s.drainSlot (s.reg .tdh).toNat := by
  obtain ⟨hdis, -⟩ | ⟨-, hbroken, -⟩ | ⟨-, -, -, hdrain⟩ := txeDrain_cases s
  · exact absurd (hdis.symm.trans hen) (by decide)
  · have hlen : (s.txDesc (s.reg .tdh).toNat).length.toNat ≤ Config.txBufSize := by
      obtain hpending | ⟨-, hzero, -⟩ := h.head_slot (tdh_ne_tdt_of_txeEnabled hen)
      · exact (h.pending _ h.head hpending).2.le
      · rw [hzero]
        exact Nat.zero_le _
    exact absurd hbroken (not_or.2 ⟨h.head.not_ge, hlen.not_gt⟩)
  · exact hdrain

/-! ## TXE frees slots and leaves the tail -/

theorem txeDrain_txCandidate (s : State) : s.txeDrain.txCandidate = s.txCandidate := by
  rw [State.txCandidate, txeDrain_reg_other s (by decide), State.txCandidate]

/-- TXE sets DD and never clears it (R198). -/
theorem txeDrain_txDone {s : State} {i : Nat} (h : s.txDone i = true) : s.txeDrain.txDone i = true := by
  obtain ⟨_, e⟩ | ⟨_, _, e⟩ | ⟨_, _, _, e⟩ := txeDrain_cases s <;> rw [e]
  · exact h
  · exact h
  · rw [drainSlot_txDone, h, ite_self]

section
variable {s : State} (h : s.TxRing) (hpending : s.txDone s.txCandidate = false)
include h hpending

/-- A full ring's window holds 63 slots, so TXE may step. -/
theorem State.TxRing.txeEnabled_of_full : s.txeEnabled = true :=
  (txeEnabled_iff s).2 ⟨h.enabled, tdh_ne_tdt_of_candidate_eq_head (h.candidate_eq_head hpending)⟩

theorem State.TxRing.txeDrain_of_full : s.txeDrain = s.drainSlot s.txCandidate := by
  rw [h.txeDrain_eq (h.txeEnabled_of_full hpending), h.candidate_eq_head hpending]

/-- TXE drains the candidate slot of a full ring (R292). -/
theorem State.TxRing.candidate_free_after_drain : s.txeDrain.txDone s.txeDrain.txCandidate = true := by
  rw [txeDrain_txCandidate, h.txeDrain_of_full hpending, drainSlot_txDone, if_pos rfl]

end

/-! ## The slot just accepted (R201) -/

/-- Slot `c` is the tail slot, is pending, and its buffer begins with `packet`. -/
structure State.HoldsAtTail (s : State) (c : Nat) (packet : Bytes) : Prop where
  pending : s.txDone c = false
  tail : (s.reg .tdt).toNat = c
  bytes : s.txBuf c 0 packet.length = packet

theorem transmit_tdt_of_accepts {s : State} {len : Half} {data : Bytes} (h : s.Accepts len data) :
    ((s.transmit len data).reg .tdt).toNat = s.txCandidate := by
  rw [transmit_of_accepts h]
  exact (congrArg BitVec.toNat (transmitOk_reg s len data .tdt)).trans (toNat_ofNat_nextTx _)

theorem transmit_txDone_of_accepts {s : State} {len : Half} {data : Bytes} (h : s.Accepts len data) (i : Nat) :
    (s.transmit len data).txDone i = if i = s.txCandidate then false else s.txDone i := by
  rw [transmit_of_accepts h]
  exact transmitOk_txDone s len data i

theorem transmit_holdsAtTail {s : State} {len : Half} {data : Bytes} (h : s.Accepts len data) :
    (s.transmit len data).HoldsAtTail s.txCandidate (packetOf len data) where
  pending := by rw [transmit_txDone_of_accepts h, if_pos rfl]
  tail := transmit_tdt_of_accepts h
  bytes := by
    rw [packetOf_length _ _ h.enough, transmit_of_accepts h]
    exact transmitOk_txBuf_same s len data h.enough

/-- TXE drains the head slot, and steps only where that is not the tail slot (R196). -/
theorem State.HoldsAtTail.txeDrain {s : State} {c : Nat} {packet : Bytes} (h : s.HoldsAtTail c packet) :
    s.txeDrain.HoldsAtTail c packet := by
  obtain ⟨hpending, htail, hbytes⟩ := h
  have htail' : (s.txeDrain.reg .tdt).toNat = c := (congrArg BitVec.toNat (txeDrain_reg_other s (by decide))).trans htail
  obtain ⟨_, e⟩ | ⟨_, _, e⟩ | ⟨hen, _, _, e⟩ := txeDrain_cases s <;> rw [e] at htail' ⊢
  · exact ⟨hpending, htail, hbytes⟩
  · exact ⟨hpending, htail, hbytes⟩
  · have hne : c ≠ (s.reg .tdh).toNat := fun heq =>
      tdh_ne_tdt_of_txeEnabled hen (BitVec.eq_of_toNat_eq (heq.symm.trans htail.symm))
    obtain ⟨htxb, -⟩ := drainSlot_rest s (s.reg .tdh).toNat
    exact ⟨by rw [drainSlot_txDone, if_neg hne, hpending], htail', by rw [State.txBuf, htxb]; exact hbytes⟩

/-! ## After a collapse (R185, R336) -/

/-- In the ring's shape, with the candidate slot at the head, the window holds every slot but the tail's, none of them the
dummy slot but the head: the TRANSMIT that takes the head slot leaves none free. -/
theorem State.TxRing.txDead_of_collapse {s : State} (h : s.TxRing) {len : Half} {data : Bytes} (hacc : s.Accepts len data)
    (hhead : s.txCandidate = (s.reg .tdh).toNat) : (s.transmit len data).txDead := by
  have hcand := s.txCandidate_eq
  have hlt := h.head
  have htail := h.tail
  simp only [Config.txCap] at hlt htail
  refine ⟨(transmit_mode ..).trans hacc.attached, fun i hi => ?_, BitVec.eq_of_toNat_eq ?_⟩
  · rw [transmit_txDone_of_accepts hacc]
    split
    · rfl
    · next hne =>
      by_cases htl : i = (s.reg .tdt).toNat
      · exact htl ▸ h.atTail.resolve_right fun hdummy => tdh_ne_tdt_of_candidate_eq_head hhead hdummy.2.symm
      · refine (h.window i hi ?_).resolve_right fun hdummy => hne (hdummy.2.trans hhead.symm)
        simp only [inWindow, Config.txCap, decide_eq_true_eq] at hi ⊢
        omega
  · rw [transmit_reg_other s len data (by decide), transmit_tdt_of_accepts hacc, hhead]

theorem State.txDead.attached {s : State} (h : s.txDead) : s.mode = .attached := by
  obtain ⟨hmode, -⟩ := h
  exact hmode

theorem State.txDead.candidate_pending {s : State} (h : s.txDead) : s.txDone s.txCandidate = false := by
  obtain ⟨-, hpending, -⟩ := h
  exact hpending _ s.txCandidate_lt

/-- The window is empty (R196). -/
theorem State.txDead.txeDrain_eq {s : State} (h : s.txDead) : s.txeDrain = s := by
  obtain ⟨-, -, hempty⟩ := h
  obtain ⟨-, e⟩ | ⟨hen, -⟩ | ⟨hen, -⟩ := txeDrain_cases s
  · exact e
  all_goals exact absurd hempty (tdh_ne_tdt_of_txeEnabled hen)

theorem State.txDead.congr {s t : State} (h : s.txDead) (hmode : t.mode = .attached) (htx : s.SameTx t) : t.txDead := by
  obtain ⟨-, hpending, hempty⟩ := h
  exact ⟨hmode, htx.txDone_eq ▸ hpending, by rw [htx.tdh_eq, htx.tdt_eq, hempty]⟩

/-- From the dead state every label leaves the TX side: no TRANSMIT is accepted and TXE is not enabled. -/
theorem State.txDead.sameTx {s : State} (h : s.txDead) {l : Label} {t : State} (hrun : runLabel l s = .next t) :
    s.SameTx t := by
  obtain ⟨len, data, -, hacc, -⟩ | ⟨-, rfl⟩ | hsame := runLabel_tx_cases h.attached hrun
  · exact absurd (h.candidate_pending.symm.trans hacc.free) (by decide)
  · rw [h.txeDrain_eq]
    exact ⟨fun _ _ => rfl, rfl, rfl, rfl, rfl⟩
  · exact hsame

end Sys2Proof.Machine
end

section
/-! The order of frames (R202): the packets waiting in a run of ring slots, and what an accepted TRANSMIT and a drain do to
tx_log followed by them. -/

namespace Sys2Proof.Machine

/-! ## Runs of ring slots -/

/-- The `n` slots from `h` on, in ring order (R16). -/
def ringSlots (h n : Nat) : List Nat := (List.range n).map fun k => (h + k) % Config.txCap

theorem State.txSlots_eq_ringSlots (s : State) :
    s.txSlots = ringSlots (s.reg .tdh).toNat
      (((s.reg .tdt).toNat + Config.txCap - (s.reg .tdh).toNat) % Config.txCap + 1) := rfl

theorem ringSlots_succ_last (h n : Nat) : ringSlots h (n + 1) = ringSlots h n ++ [(h + n) % Config.txCap] := by
  rw [ringSlots, List.range_succ, List.map_append, ringSlots, List.map_singleton]

theorem ringSlots_succ_first {h : Nat} (hh : h < Config.txCap) (n : Nat) :
    ringSlots h (n + 1) = h :: ringSlots (nextTx h) n := by
  rw [ringSlots, List.range_succ_eq_map, List.map_cons, List.map_map, ringSlots, Nat.add_zero, Nat.mod_eq_of_lt hh]
  congr 1
  refine List.map_congr_left fun k _ => ?_
  simp only [Function.comp_apply, nextTx, Config.txCap]
  omega

theorem mem_ringSlots {h n i : Nat} : i ∈ ringSlots h n ↔ ∃ k < n, (h + k) % Config.txCap = i := by
  simp only [ringSlots, List.mem_map, List.mem_range]

theorem lt_of_mem_ringSlots {h n i : Nat} (hi : i ∈ ringSlots h n) : i < Config.txCap := by
  obtain ⟨k, -, rfl⟩ := mem_ringSlots.1 hi
  exact Nat.mod_lt _ (by decide)

/-! ## The packets waiting in some slots -/

/-- The packets of those of the slots that TXE has not drained. -/
def State.waitingIn (s : State) (slots : List Nat) : List Bytes := (slots.filter fun i => !s.txDone i).map s.txPacket

theorem State.txWaiting_eq_waitingIn (s : State) : s.txWaiting = s.waitingIn s.txSlots := rfl

theorem State.waitingIn_append (s : State) (l₁ l₂ : List Nat) :
    s.waitingIn (l₁ ++ l₂) = s.waitingIn l₁ ++ s.waitingIn l₂ := by
  simp only [State.waitingIn, List.filter_append, List.map_append]

theorem State.waitingIn_singleton_pending {s : State} {i : Nat} (h : s.txDone i = false) :
    s.waitingIn [i] = [s.txPacket i] := by
  simp [State.waitingIn, h]

theorem State.waitingIn_singleton_done {s : State} {i : Nat} (h : s.txDone i = true) : s.waitingIn [i] = [] := by
  simp [State.waitingIn, h]

/-- Slots that keep DD and, where it is 0, their packet wait as before. -/
theorem State.waitingIn_congr {s t : State} {slots : List Nat} (hdone : ∀ i ∈ slots, t.txDone i = s.txDone i)
    (hpacket : ∀ i ∈ slots, s.txDone i = false → t.txPacket i = s.txPacket i) : t.waitingIn slots = s.waitingIn slots := by
  rw [State.waitingIn, List.filter_congr fun i hi => congrArg (!·) (hdone i hi)]
  refine List.map_congr_left fun i hi => ?_
  obtain ⟨hmem, hpending⟩ := List.mem_filter.1 hi
  exact hpacket i hmem (by simpa using hpending)

/-! ## An accepted TRANSMIT that does not collapse the window -/

/-- It adds its slot behind the tail. -/
theorem transmitOk_txSlots {s : State} (h : s.TxRing) (len : Half) (data : Bytes)
    (hapart : s.txCandidate ≠ (s.reg .tdh).toNat) : (s.transmitOk len data).txSlots = s.txSlots ++ [s.txCandidate] := by
  have hcand := s.txCandidate_eq
  have hhead := h.head
  have htail := h.tail
  have htdt : ((s.transmitOk len data).reg .tdt).toNat = s.txCandidate := by
    rw [transmitOk_reg, if_pos rfl, State.txCandidate, toNat_ofNat_nextTx]
  have htdh : (s.transmitOk len data).reg .tdh = s.reg .tdh := by rw [transmitOk_reg, if_neg (by decide)]
  simp only [Config.txCap] at hhead htail
  rw [State.txSlots_eq_ringSlots, State.txSlots_eq_ringSlots, htdt, htdh]
  generalize hn : ((s.reg .tdt).toNat + Config.txCap - (s.reg .tdh).toNat) % Config.txCap = n
  have hcount : (s.txCandidate + Config.txCap - (s.reg .tdh).toNat) % Config.txCap = n + 1 := by
    simp only [Config.txCap] at hn ⊢
    omega
  have hlast : ((s.reg .tdh).toNat + (n + 1)) % Config.txCap = s.txCandidate := by
    simp only [Config.txCap] at hn ⊢
    omega
  rw [hcount, ringSlots_succ_last _ (n + 1), hlast]

theorem State.TxRing.candidate_not_mem_txSlots {s : State} (h : s.TxRing) (hapart : s.txCandidate ≠ (s.reg .tdh).toNat) :
    s.txCandidate ∉ s.txSlots := by
  have hcand := s.txCandidate_eq
  have hhead := h.head
  have htail := h.tail
  rw [State.txSlots_eq_ringSlots, mem_ringSlots]
  rintro ⟨k, hk, heq⟩
  simp only [Config.txCap] at hhead htail hk heq
  omega

theorem transmitOk_txPacket_candidate (s : State) {len : Half} {data : Bytes} (hdata : len.toNat ≤ data.length) :
    (s.transmitOk len data).txPacket s.txCandidate = packetOf len data := by
  rw [State.txPacket, transmitOk_txDesc, if_pos rfl]
  exact transmitOk_txBuf_same s len data hdata

/-- A waiting packet stays inside its buffer, which the new packet does not reach. -/
theorem State.TxRing.transmitOk_txPacket {s : State} (h : s.TxRing) {len : Half} (data : Bytes)
    (hlen : len.toNat < Config.maxFrame) {i : Nat} (hi : i < Config.txCap) (hne : i ≠ s.txCandidate)
    (hpending : s.txDone i = false) : (s.transmitOk len data).txPacket i = s.txPacket i := by
  rw [State.txPacket, transmitOk_txDesc, if_neg hne]
  exact transmitOk_txBuf_other s len data i _ hlen (h.pending i hi hpending).2.le hne

theorem State.TxRing.transmitOk_txWaiting {s : State} (h : s.TxRing) {len : Half} {data : Bytes}
    (hlen : len.toNat < Config.maxFrame) (hdata : len.toNat ≤ data.length)
    (hapart : s.txCandidate ≠ (s.reg .tdh).toNat) :
    (s.transmitOk len data).txWaiting = s.txWaiting ++ [packetOf len data] := by
  have hne : ∀ i ∈ s.txSlots, i ≠ s.txCandidate := fun i hi heq => h.candidate_not_mem_txSlots hapart (heq ▸ hi)
  have hold : (s.transmitOk len data).waitingIn s.txSlots = s.waitingIn s.txSlots :=
    State.waitingIn_congr (fun i hi => by rw [transmitOk_txDone, if_neg (hne i hi)]) fun i hi =>
      h.transmitOk_txPacket data hlen (lt_of_mem_ringSlots hi) (hne i hi)
  have hnew : (s.transmitOk len data).waitingIn [s.txCandidate] = [packetOf len data] := by
    rw [State.waitingIn_singleton_pending (by rw [transmitOk_txDone, if_pos rfl]), transmitOk_txPacket_candidate s hdata]
  rw [State.txWaiting_eq_waitingIn, transmitOk_txSlots h len data hapart, State.waitingIn_append, hold, hnew,
    State.txWaiting_eq_waitingIn]

/-- The log stays and the packet is put behind those that wait. -/
theorem State.TxRing.transmit_order {s : State} (h : s.TxRing) {len : Half} {data : Bytes} (hacc : s.Accepts len data)
    (hapart : s.txCandidate ≠ (s.reg .tdh).toNat) :
    (s.transmit len data).txLog ++ (s.transmit len data).txWaiting = s.txLog ++ s.txWaiting ++ [packetOf len data] := by
  obtain ⟨-, -, -, -, hlog, -⟩ := transmitOk_rest s len data
  have hwaiting := h.transmitOk_txWaiting hacc.allowed hacc.enough hapart
  rw [transmit_of_accepts hacc, List.append_assoc, ← hwaiting, ← hlog]
  rfl

theorem transmit_txLog_of_accepts {s : State} {len : Half} {data : Bytes} (h : s.Accepts len data) :
    (s.transmit len data).txLog = s.txLog := by
  rw [transmit_of_accepts h]
  simp only [transmitOk_rest]

/-! ## A drain -/

theorem drainSlot_txPacket (s : State) (i j : Nat) : (s.drainSlot i).txPacket j = s.txPacket j := by
  obtain ⟨htxb, -⟩ := drainSlot_rest s i
  have hlen : ((s.drainSlot i).txDesc j).length = (s.txDesc j).length := by
    by_cases hj : j = i <;> simp [drainSlot_txDesc, hj]
  rw [State.txPacket, hlen, State.txBuf, htxb, State.txPacket, State.txBuf]

section
variable {s : State} (h : s.TxRing) (hne : s.reg .tdh ≠ s.reg .tdt)
include h hne

/-- It takes the head slot off the front. -/
theorem State.TxRing.txSlots_eq_cons_drainSlot :
    s.txSlots = (s.reg .tdh).toNat :: (s.drainSlot (s.reg .tdh).toNat).txSlots := by
  have hhead := h.head
  have htail := h.tail
  have hne' := BitVec.toNat_ne_iff_ne.2 hne
  have htdh : ((s.drainSlot (s.reg .tdh).toNat).reg .tdh).toNat = nextTx (s.reg .tdh).toNat := by
    rw [drainSlot_reg, if_pos rfl, toNat_ofNat_nextTx]
  have htdt : (s.drainSlot (s.reg .tdh).toNat).reg .tdt = s.reg .tdt := by rw [drainSlot_reg, if_neg (by decide)]
  rw [State.txSlots_eq_ringSlots, ringSlots_succ_first hhead, State.txSlots_eq_ringSlots, htdh, htdt]
  congr 2
  simp only [nextTx, Config.txCap] at hhead htail ⊢
  omega

/-- The slots behind the head are not the head. -/
theorem State.TxRing.head_not_mem_drainSlot_txSlots :
    (s.reg .tdh).toNat ∉ (s.drainSlot (s.reg .tdh).toNat).txSlots := by
  have hslots := h.txSlots_eq_cons_drainSlot hne
  have hnodup : s.txSlots.Nodup := by
    rw [State.txSlots_eq_ringSlots, ringSlots]
    refine List.Nodup.map_on (fun j hj k hk heq => ?_) List.nodup_range
    simp only [List.mem_range, Config.txCap] at hj hk heq
    omega
  rw [hslots] at hnodup
  exact (List.nodup_cons.1 hnodup).1

theorem State.TxRing.drainSlot_txWaiting :
    (s.drainSlot (s.reg .tdh).toNat).txWaiting = s.waitingIn (s.drainSlot (s.reg .tdh).toNat).txSlots :=
  State.waitingIn_congr
    (fun i hi => by
      have hhead : i ≠ (s.reg .tdh).toNat := fun heq => h.head_not_mem_drainSlot_txSlots hne (heq ▸ hi)
      rw [drainSlot_txDone, if_neg hhead])
    fun i _ _ => drainSlot_txPacket s _ i

/-- What waits in the head slot goes out: a pending slot's packet as one frame, of the dummy slot nothing (R200). -/
theorem State.TxRing.drainSlot_txLog :
    (s.drainSlot (s.reg .tdh).toNat).txLog = s.txLog ++ s.waitingIn [(s.reg .tdh).toNat] := by
  have hemits := congrArg Prod.fst (drainSlot_emits s (s.reg .tdh).toNat)
  obtain hpending | ⟨-, -, hcmd, hdone⟩ := h.head_slot hne
  · rw [(h.pending _ h.head hpending).1, cmdEop_cmdRsEop, if_pos rfl, h.accum] at hemits
    rw [State.waitingIn_singleton_pending hpending]
    exact hemits
  · rw [hcmd, cmdEop_zero] at hemits
    rw [State.waitingIn_singleton_done hdone, List.append_nil]
    exact hemits

end

theorem State.TxRing.txeDrain_order {s : State} (h : s.TxRing) :
    s.txeDrain.txLog ++ s.txeDrain.txWaiting = s.txLog ++ s.txWaiting := by
  cases hen : s.txeEnabled
  · rw [State.txeDrain, hen]
    rfl
  · have hne := tdh_ne_tdt_of_txeEnabled hen
    have hsplit : s.txSlots = [(s.reg .tdh).toNat] ++ (s.drainSlot (s.reg .tdh).toNat).txSlots :=
      h.txSlots_eq_cons_drainSlot hne
    rw [h.txeDrain_eq hen, h.drainSlot_txLog hne, h.drainSlot_txWaiting hne, s.txWaiting_eq_waitingIn, hsplit,
      State.waitingIn_append, List.append_assoc]

end Sys2Proof.Machine
end

section
/-! Runs (R189, R305, R343): what a label does to TDT and to a free candidate slot in mode ATTACHED, and what an infinite run
of R305 keeps. -/

namespace Sys2Proof.Machine

/-! ## TDT counts the accepted TRANSMITs (R189) -/

theorem runLabel_tdt_of_not_accepted {l : Label} {s t : State} (hmode : s.mode = .attached)
    (hrun : runLabel l s = .next t) (hnot : ¬l.accepted s = true) : t.reg .tdt = s.reg .tdt := by
  obtain ⟨len, data, rfl, hacc, -⟩ | ⟨-, rfl⟩ | hsame := runLabel_tx_cases hmode hrun
  · exact absurd ((Label.accepted_iff _ s).2 ⟨len, data, rfl, hacc⟩) hnot
  · exact txeDrain_reg_other s (by decide)
  · exact hsame.tdt_eq

theorem after_tdt {s : State} (hmode : s.mode = .attached) (htail : (s.reg .tdt).toNat < Config.txCap) (l : Label) :
    ((s.after l).reg .tdt).toNat = ((s.reg .tdt).toNat + if l.accepted s then 1 else 0) % 64 := by
  obtain ⟨t, ht⟩ := runLabel_next l s
  rw [State.after_of_runLabel ht]
  by_cases hacc : l.accepted s = true
  · obtain ⟨len, data, rfl, hok⟩ := (Label.accepted_iff l s).1 hacc
    cases (runLabel_transmit len data s).symm.trans ht
    rw [if_pos hacc, transmit_tdt_of_accepts hok]
    rfl
  · rw [if_neg hacc, runLabel_tdt_of_not_accepted hmode ht hacc, Nat.add_zero, Nat.mod_eq_of_lt htail]

theorem afterAll_tdt {s : State} (hmode : s.mode = .attached) (htail : (s.reg .tdt).toNat < Config.txCap)
    (ls : List Label) : ((s.afterAll ls).reg .tdt).toNat = ((s.reg .tdt).toNat + acceptedCount ls s) % 64 := by
  induction ls generalizing s with
  | nil => exact (Nat.mod_eq_of_lt htail).symm
  | cons l ls ih =>
    obtain ⟨t, ht⟩ := runLabel_next l s
    have hstep := after_tdt hmode htail l
    have hattached : (s.after l).mode = .attached := State.after_of_runLabel ht ▸ runLabel_mode_of_attached hmode ht
    have hrest := ih hattached (hstep ▸ Nat.mod_lt _ (by decide))
    rw [hstep] at hrest
    rw [acceptedCount, ← Nat.add_assoc, ← Nat.mod_add_mod]
    exact hrest

/-! ## A free candidate slot stays free until a TRANSMIT takes it -/

theorem runLabel_keeps_candidate_free {l : Label} {s t : State} (hmode : s.mode = .attached)
    (hrun : runLabel l s = .next t) (hnot : ¬l.accepted s = true) (hfree : s.txDone s.txCandidate = true) :
    t.txDone t.txCandidate = true := by
  obtain ⟨len, data, rfl, hacc, -⟩ | ⟨-, rfl⟩ | hsame := runLabel_tx_cases hmode hrun
  · exact absurd ((Label.accepted_iff _ s).2 ⟨len, data, rfl, hacc⟩) hnot
  · rw [txeDrain_txCandidate]
    exact txeDrain_txDone hfree
  · rwa [hsame.txDone_eq, hsame.txCandidate_eq]

/-! ## Infinite runs (R305) -/

/-- A label is a step of the state that has it at the head of the schedule. -/
theorem step_cons_pending {s : State} (hnone : s.refused = none) (l : Label) :
    step { s with pending := l :: s.pending } = runLabel l s :=
  step_of_pending_cons hnone rfl

theorem runLabel_keeps_txRingIfLive {l : Label} {s t : State} (hnone : s.refused = none) (h : s.TxRingIfLive)
    (hrun : runLabel l s = .next t) : t.TxRingIfLive :=
  step_keeps_txRingIfLive { s with pending := l :: s.pending } t (h.congr rfl id (fun _ _ => rfl) rfl rfl)
    ((step_cons_pending hnone l).trans hrun)

section
variable {at_ : Nat → State} {label : Nat → Option Label} (hrun : IsRun at_ label)
include hrun

theorem IsRun.idle {n : Nat} (h : label n = none) : at_ (n + 1) = at_ n := by
  have hn := hrun n
  rwa [h] at hn

theorem IsRun.step {n : Nat} {l : Label} (h : label n = some l) :
    (at_ n).refused = none ∧ runLabel l (at_ n) = .next (at_ (n + 1)) := by
  have hn := hrun n
  rw [h] at hn
  obtain ⟨hnone, -, hnext⟩ := hn
  exact ⟨hnone, hnext⟩

theorem IsRun.attached (h0 : (at_ 0).mode = .attached) (n : Nat) : (at_ n).mode = .attached := by
  induction n with
  | zero => exact h0
  | succ n ih =>
    cases hl : label n with
    | none => rw [hrun.idle hl]; exact ih
    | some l => exact runLabel_mode_of_attached ih (hrun.step hl).2

theorem IsRun.txRing (h0 : (at_ 0).mode = .attached) (hring : (at_ 0).TxRing)
    (hlive : ∀ n, (at_ n).faults.has .txWindowCollapse = false) (n : Nat) : (at_ n).TxRing := by
  induction n with
  | zero => exact hring
  | succ n ih =>
    cases hl : label n with
    | none => rw [hrun.idle hl]; exact ih
    | some l =>
      obtain ⟨hnone, hnext⟩ := hrun.step hl
      exact runLabel_keeps_txRingIfLive hnone (fun _ _ => ih) hnext (hrun.attached h0 (n + 1)) (hlive (n + 1))

/-- A candidate slot that stayed pending would keep TXE enabled, and the step that fairness then gives frees it (R343). -/
theorem IsRun.candidate_free_again (hfair : TxeFair at_ label) (hring : ∀ n, (at_ n).TxRing) (n : Nat) :
    ∃ m, n ≤ m ∧ (at_ m).txDone (at_ m).txCandidate = true := by
  by_contra hnever
  push Not at hnever
  have hpending (m : Nat) (hm : n ≤ m) : (at_ m).txDone (at_ m).txCandidate = false :=
    Bool.eq_false_iff.2 (hnever m hm)
  obtain ⟨m, hm, hl⟩ := hfair n fun m hm => (hring m).txeEnabled_of_full (hpending m hm)
  have hdrain : (at_ m).txeDrain = at_ (m + 1) := Host.Outcome.next.inj (hrun.step hl).2
  have hfree := (hring m).candidate_free_after_drain (hpending m hm)
  rw [hdrain] at hfree
  exact hnever (m + 1) (by omega) hfree

/-- From a free candidate slot on, the slot is free until a TRANSMIT is accepted. -/
theorem IsRun.free_until_accepted (hattached : ∀ n, (at_ n).mode = .attached) {n : Nat}
    (hfree : (at_ n).txDone (at_ n).txCandidate = true) (k : Nat) :
    (∃ m l, n ≤ m ∧ label m = some l ∧ l.accepted (at_ m) = true) ∨
      (at_ (n + k)).txDone (at_ (n + k)).txCandidate = true := by
  induction k with
  | zero => exact .inr hfree
  | succ k ih =>
    refine ih.elim .inl fun hfree => ?_
    cases hl : label (n + k) with
    | none => exact .inr ((hrun.idle hl).symm ▸ hfree)
    | some l =>
      by_cases hacc : l.accepted (at_ (n + k)) = true
      · exact .inl ⟨n + k, l, by omega, hl, hacc⟩
      · exact .inr (runLabel_keeps_candidate_free (hattached _) (hrun.step hl).2 hacc hfree)

/-- Where the candidate slot is free and a TRANSMIT of allowed operands follows, that TRANSMIT is accepted, or one before it
is. -/
theorem IsRun.accepted_of_retry (hattached : ∀ n, (at_ n).mode = .attached) {n : Nat}
    (hfree : (at_ n).txDone (at_ n).txCandidate = true) {len : Half} {data : Bytes}
    (hlen : len.toNat < Config.maxFrame) (hdata : len.toNat ≤ data.length)
    (hretry : ∃ m, n ≤ m ∧ label m = some (.host (encode (.transmit len data)) data)) :
    ∃ m l, n ≤ m ∧ label m = some l ∧ l.accepted (at_ m) = true := by
  obtain ⟨m, hm, hl⟩ := hretry
  obtain ⟨k, rfl⟩ := Nat.exists_eq_add_of_le hm
  refine (hrun.free_until_accepted hattached hfree k).elim id fun hfree => ?_
  exact ⟨n + k, _, hm, hl, (Label.accepted_iff _ _).2 ⟨len, data, rfl, hattached _, hlen, hdata, hfree⟩⟩

end

end Sys2Proof.Machine
end

section
/-! The statements on TRANSMIT, TXE's drain, the TX protocol and the two sides of the block. -/

namespace Sys2Proof.Machine

/-- Settles O49: an accepted TRANSMIT by `transmit_order`, TXE's step by `txeDrain_order`; every other label leaves the TX
side. -/
theorem txKeepsOrder : Obligations.TxKeepsOrder := by
  intro s t hmode hring hstep
  have hring₀ : s.dropLabel.TxRing := hring.congr (fun _ _ => rfl) rfl rfl
  obtain ⟨hnone, hway⟩ := step_cases s t hstep
  refine ⟨fun len data rest hp hlen hdata hfree => ?_, fun hnot => ?_⟩
  · have hacc : s.dropLabel.Accepts len data := ⟨hmode, hlen, hdata, hfree⟩
    rw [step_of_pending_cons hnone hp, runLabel_transmit] at hstep
    cases hstep
    exact ⟨hring₀.transmit_order hacc, fun _ => transmit_txLog_of_accepts hacc⟩
  · obtain ⟨-, rfl⟩ | ⟨l, rest, hp, hrun⟩ := hway
    · rfl
    · obtain ⟨len, data, rfl, hacc, -⟩ | ⟨-, rfl⟩ | hsame := runLabel_tx_cases (s := s.dropLabel) hmode hrun
      · obtain hlong | hshort | hpending := hnot len data rest hp
        · exact absurd hacc.allowed hlong.not_gt
        · exact absurd hacc.enough hshort.not_ge
        · exact absurd (hpending.symm.trans hacc.free) (by decide)
      · exact hring₀.txeDrain_order
      · rw [hsame.txWaiting_eq]
        exact congrArg (· ++ s.txWaiting) hsame.txLog_eq

/-! ## TRANSMIT -/

/-- Settles O16: `transmit_of_accepts`, and what TRANSMIT's OK does to each part of the state. -/
theorem transmitAccepts : Obligations.TransmitAccepts := by
  intro s len data c hmode hlen hdata hfree
  have hacc : s.Accepts len data := ⟨hmode, hlen, hdata, hfree⟩
  have htail := transmit_tdt_of_accepts hacc
  refine ⟨_, exec_transmit s len data, ?_⟩
  rw [transmit_of_accepts hacc] at htail ⊢
  obtain ⟨hrxd, hrxb, htmode, haccum, hlog, -, hrefused, hpending, hplatform, hresp⟩ := transmitOk_rest s len data
  have hreg := transmitOk_reg s len data
  exact ⟨transmitOk_txBuf_same s len data hdata, fun a ha => transmitOk_txb_read s len data ha,
    transmitOk_txDesc_candidate s len data, fun i hi => transmitOk_txDesc_other s len data hi,
    hreg .tdt, fun r hr => (hreg r).trans (if_neg hr), fun _ => htail ▸ inWindow_self_right .., hresp, rfl,
    hrxd, hrxb, htmode, haccum, hlog, hrefused, hpending, hplatform⟩

/-- Settles O17: an accepted TRANSMIT writes what R183 and R184 say; one that is turned away leaves all but the fault set and
the answer, or all but the refusal mark. -/
theorem transmitFrame : Obligations.TransmitFrame := by
  intro s t len data hexec c
  cases (exec_transmit s len data).symm.trans hexec
  refine ⟨fun r => transmit_reg_other s len data, ?_⟩
  by_cases hacc : s.Accepts len data
  · have hresp := transmit_responses_of_accepts hacc
    obtain ⟨hrxd, hrxb, hmode, haccum, hlog, -, -, hpending, hplatform, -⟩ := transmitOk_rest s len data
    rw [transmit_of_accepts hacc] at hresp ⊢
    refine ⟨.inr (transmitOk_reg s len data .tdt), fun a => transmitOk_txd_read s len data,
      fun a => transmitOk_txb_read s len data, hrxd, hrxb, hmode, haccum, hlog, hplatform, hpending, fun r hr hcode => ?_⟩
    rw [hresp] at hr
    cases List.append_cancel_left hr
    exact absurd (Response.code_responseWord ..) hcode
  · obtain ⟨reason, e⟩ | ⟨f, code, -, e⟩ := transmit_turnedAway hacc <;> rw [e]
    · refine ⟨.inl rfl, fun _ _ _ _ _ => rfl, fun _ _ => rfl, rfl, rfl, rfl, rfl, rfl, rfl, rfl, fun r hr => ?_⟩
      exact absurd hr (by simp)
    · exact ⟨.inl rfl, fun _ _ _ _ _ => rfl, fun _ _ => rfl, rfl, rfl, rfl, rfl, rfl, rfl, rfl, fun _ _ _ => rfl⟩

/-- Settles O18: the length check is the first in mode ATTACHED. -/
theorem transmitTooLarge : Obligations.TransmitTooLarge := by
  intro s len data hmode hlen
  rw [exec_transmit, transmit_of_tooLarge hmode hlen]
  rfl

/-- Settles O19: `transmit_of_ringFull`. -/
theorem transmitRingFull : Obligations.TransmitRingFull := by
  intro s len data hmode hlen hdata hpending
  rw [exec_transmit, transmit_of_ringFull hmode hlen hdata hpending]
  rfl

/-- Settles O20: it is the accepted TRANSMIT of O16, and the tail it publishes is the head. -/
theorem transmitCollapse : Obligations.TransmitCollapse := by
  intro s len data c hmode hlen hdata hfree hhead
  obtain ⟨t, hexec, hbytes, -, hdesc, hothers, htdt, hregs, -, hresp, hfaults, -⟩ :=
    transmitAccepts s len data hmode hlen hdata hfree
  have hempty : t.reg .tdt = t.reg .tdh := by
    rw [htdt, hregs .tdh (by decide)]
    exact BitVec.eq_of_toNat_eq ((toNat_ofNat_nextTx _).trans hhead)
  refine ⟨t, hexec, hfaults.trans (if_pos hhead), hbytes, hdesc, hothers, hempty, ?_, hresp⟩
  exact Bool.eq_false_iff.2 fun hen => tdh_ne_tdt_of_txeEnabled hen hempty.symm

/-! ## TXE's drain -/

/-- Settles O27: of the ways TXE's step can end, the conditions leave the drain. -/
theorem drainSendsSlot : Obligations.DrainSendsSlot := by
  intro s h d hen hne hhead hlen t
  have hon : s.txeEnabled = true := (txeEnabled_iff s).2 ⟨hen, hne⟩
  have hdrain : t = s.drainSlot h := by
    obtain ⟨hdis, -⟩ | ⟨-, hbroken, -⟩ | ⟨-, -, -, e⟩ := txeDrain_cases s
    · exact absurd (hdis.symm.trans hon) (by decide)
    · exact absurd hbroken (not_or.2 ⟨hhead.not_ge, hlen.not_gt⟩)
    · exact e
  obtain ⟨htxb, hrxd, hrxb, hmode, hfaults, hrefused, hpending, hplatform, hresp⟩ := drainSlot_rest s h
  have hreg := drainSlot_reg s h
  have hemits := drainSlot_emits s h
  rw [hdrain]
  refine ⟨fun heop => Prod.ext_iff.1 (hemits.trans (if_pos heop)),
    fun heop => Prod.ext_iff.1 (hemits.trans (if_neg (Bool.eq_false_iff.1 heop))), (drainSlot_txDesc s h h).trans (if_pos rfl),
    fun i hi => (drainSlot_txDesc s h i).trans (if_neg hi), fun a ha => ?_, hreg .tdh, fun r hr => (hreg r).trans (if_neg hr),
    htxb, hrxd, hrxb, hmode, hfaults, hrefused, hplatform, hpending, hresp⟩
  rw [drainSlot_txd, Memory.read_setField_other]
  omega

/-- Settles O39: of the ways a step can change the state, only ATTACH's OK sets an EN bit, and it enters mode ATTACHED;
neither engine steps outside it. -/
theorem enginesOffUntilAttached : Obligations.EnginesOffUntilAttached := by
  intro s t h hstep
  refine step_preserves (fun s => s.mode ≠ .attached → s.enginesOff) ?respond ?raise ?refuse ?drop ?attachFails ?attachOk
    ?transmitOk ?receiveOk ?drain ?fill s t h hstep
  case respond | raise | refuse => exact fun _ _ h => h
  case drop => exact fun _ h => h
  case attachFails => exact fun s h hun _ => h (hun ▸ nofun)
  case attachOk => exact fun s _ _ _ _ hne => absurd (attachOk_mode s) hne
  case transmitOk => exact fun s len data _ hmode _ _ _ _ hne => absurd ((transmitOk_mode s len data).trans hmode) hne
  case receiveOk => exact fun s _ hmode _ _ hne => absurd ((receiveOk_mode s _).trans hmode) hne
  case drain =>
    intro s h hen _ _ hne
    rw [drainSlot_mode] at hne
    exact absurd ((h hne).1.symm.trans ((txeEnabled_iff s).1 hen).1) (by decide)
  case fill =>
    intro s frame draw h _ hen _ _ hne
    rw [fillSlot_mode] at hne
    exact absurd ((h hne).2.symm.trans hen) (by decide)

/-! ## The TX protocol -/

/-- Settles O46: a free candidate slot gives OK, a pending one RING_FULL, and only the head slot can be pending there. -/
theorem ringFullExactly : Obligations.RingFullExactly := by
  intro s len data hmode hring hlen hdata
  refine ⟨⟨?_, exec_transmit_ringFull hmode hlen hdata⟩, fun hpending => ?_, fun ⟨hhead, hpending⟩ => hhead ▸ hpending⟩
  · rintro ⟨t, r, hexec, hresp, hcode⟩
    by_contra hfree
    have hok := transmit_responses_of_accepts ⟨hmode, hlen, hdata, Bool.eq_true_of_not_eq_false hfree⟩
    cases (exec_transmit s len data).symm.trans hexec
    cases List.append_cancel_left (hok.symm.trans hresp)
    exact absurd hcode (by decide)
  · have hhead := hring.candidate_eq_head hpending
    exact ⟨hhead, hhead ▸ hpending⟩

/-- Settles O47: the pending candidate slot is the head of a window that is not empty, and TXE drains it. -/
theorem retryAfterDrainSucceeds : Obligations.RetryAfterDrainSucceeds := by
  intro s len data hmode hring hlen hdata hpending
  have hacc : s.txeDrain.Accepts len data :=
    ⟨(txeDrain_mode s).trans hmode, hlen, hdata, hring.candidate_free_after_drain hpending⟩
  have hresp : s.txeDrain.responses = s.responses := by
    rw [hring.txeDrain_of_full hpending]
    simp only [drainSlot_rest]
  exact ⟨hring.txeEnabled_of_full hpending, hresp ▸ hacc.exec_ok⟩

/-- Settles O48: fairness frees the candidate slot again and again, and it stays free until a TRANSMIT is accepted, which
can only be the one that is retried. -/
theorem fairRetrySucceeds : Obligations.FairRetrySucceeds := by
  intro at_ label hrun hfair hmode hring hlive len data hlen hdata
  have hattached := hrun.attached hmode
  have hfree := hrun.candidate_free_again hfair (hrun.txRing hmode hring hlive)
  refine ⟨fun n => ?_, fun n hretry honly => ?_⟩
  · obtain ⟨m, hm, hdone⟩ := hfree n
    exact ⟨m, hm, State.Accepts.exec_ok ⟨hattached m, hlen, hdata, hdone⟩⟩
  · obtain ⟨m₀, hm₀, hdone⟩ := hfree n
    obtain ⟨m, l, hm, hl, hacc⟩ := hrun.accepted_of_retry hattached hdone hlen hdata (hretry m₀ hm₀)
    obtain ⟨len', data', rfl, hok⟩ := (Label.accepted_iff l _).1 hacc
    have hnext : (at_ m).transmit len' data' = at_ (m + 1) :=
      Host.Outcome.next.inj ((runLabel_transmit ..).symm.trans (hrun.step hl).2)
    exact ⟨m, hm₀.trans hm, hl.trans (congrArg some (honly m _ (hm₀.trans hm) hl hacc)), _,
      hnext ▸ transmit_responses_of_accepts hok, Response.code_responseWord ..⟩

/-- Settles O50: ATTACH's OK sets TDT to 0, and each label then adds to it what it adds to the count. -/
theorem tailCountsAccepted : Obligations.TailCountsAccepted := by
  intro s ls hvalid hmode hstatus
  rw [attach_of_status_eq hvalid hmode hstatus]
  have htail := attachOk_tdt s
  rw [afterAll_tdt (attachOk_mode s) (htail ▸ by decide), htail, Nat.zero_add]

/-- Settles O51: `State.HoldsAtTail` holds after the TRANSMIT, and TXE keeps it. -/
theorem oneSlotLag : Obligations.OneSlotLag := by
  intro s len data hmode hlen hdata hfree n
  have hholds : (State.txeDrain^[n] (s.transmit len data)).HoldsAtTail s.txCandidate (packetOf len data) :=
    Function.Iterate.rec (State.HoldsAtTail · s.txCandidate (packetOf len data))
      (transmit_holdsAtTail ⟨hmode, hlen, hdata, hfree⟩) (fun _ => State.HoldsAtTail.txeDrain) n
  obtain ⟨hpending, htail, hbytes⟩ := hholds
  rw [packetOf_length _ _ hdata] at hbytes
  exact ⟨hpending, htail, hbytes⟩

/-- Settles O52: the collapse leaves no slot free, and in the dead state no label touches the TX side. -/
theorem collapseIsDeadlock : Obligations.CollapseIsDeadlock := by
  refine ⟨fun s len data hmode hring hlen hdata hfree hhead => hring.txDead_of_collapse ⟨hmode, hlen, hdata, hfree⟩ hhead,
    fun s t hdead hstep => ?_, fun s len data hdead hlen hdata =>
      exec_transmit_ringFull hdead.attached hlen hdata hdead.candidate_pending⟩
  obtain ⟨-, ⟨-, rfl⟩ | ⟨l, rest, -, hrun⟩⟩ := step_cases s t hstep
  · exact ⟨hdead, rfl⟩
  · have hdead₀ : s.dropLabel.txDead := hdead
    have hsame := hdead₀.sameTx hrun
    exact ⟨hdead₀.congr (runLabel_mode_of_attached hdead₀.attached hrun) hsame, hsame.txLog_eq⟩

/-! ## The two sides -/

/-- Settles O59: TXE and TRANSMIT are independent of the RX side, RXE and RECEIVE write none of the TX side, and of the labels
ATTACH's word alone changes more registers than the cursors, or the mode. -/
theorem sidesLeaveEachOther : Obligations.SidesLeaveEachOther := by
  refine fun s => ⟨⟨txeDrain_independentOfRx.sameRx s, fun len data t hexec => ?_⟩,
    ⟨rxeFill_sameTx s, fun t hexec => ?_⟩, fun l t hrun hnot => ?_⟩
  · cases (exec_transmit s len data).symm.trans hexec
    exact (transmit_independentOfRx len data).sameRx s
  · cases (exec_receive s).symm.trans hexec
    exact receive_sameTx s
  · have hreg {r : Reg} (hr : r ∉ [.tdh, .tdt, .rdh, .rdt]) : t.reg r = s.reg r := runLabel_reg_of_not_attach hrun hnot hr
    refine ⟨hreg (by decide), hreg (by decide), ?_⟩
    by_contra hne
    obtain ⟨-, data, hattach⟩ := runLabel_mode_of_ne hrun hne
    exact hnot data hattach

end Sys2Proof.Machine
end

section
/-! How RECEIVE and RXE's step end under the conditions of the statements on the RX side (R222 to R227, R236 to R241), and
what RECEIVE leaves whatever its outcome (R220). -/

namespace Sys2Proof.Machine

/-! ## How RECEIVE ends in mode ATTACHED -/

section
variable {s : State} (hmode : s.mode = .attached)
include hmode

theorem receive_of_empty (hfree : s.rxDone s.rxCursor = false) : s.receive = s.result .noPacketAvailable := by
  simp only [State.receive, hmode, hfree, Bool.not_false, if_true]

theorem receive_of_tooLong (hdone : s.rxDone s.rxCursor = true)
    (hlen : Config.rxBufSize < (s.rxDesc s.rxCursor).length.toNat) : s.receive = s.fault .invariantBroken := by
  simp only [State.receive, hmode, hdone, Bool.not_true, Bool.false_eq_true, if_false, if_pos hlen]

theorem receive_of_deliverable (hdone : s.rxDone s.rxCursor = true)
    (hlen : (s.rxDesc s.rxCursor).length.toNat ≤ Config.rxBufSize) : s.receive = s.receiveOk s.rxCursor := by
  simp only [State.receive, hmode, hdone, Bool.not_true, Bool.false_eq_true, if_false, if_neg hlen.not_gt]

end

/-! ## What RECEIVE leaves -/

theorem State.TurnedAway.sameRx {s t : State} (h : s.TurnedAway t) : s.SameRx t := by
  obtain ⟨_, rfl⟩ | ⟨_, _, _, rfl⟩ := h <;> exact ⟨fun _ _ => rfl, rfl, rfl⟩

theorem State.TurnedAway.platform {s t : State} (h : s.TurnedAway t) : t.platform = s.platform := by
  obtain ⟨_, rfl⟩ | ⟨_, _, _, rfl⟩ := h <;> rfl

theorem State.TurnedAway.pending {s t : State} (h : s.TurnedAway t) : t.pending = s.pending := by
  obtain ⟨_, rfl⟩ | ⟨_, _, _, rfl⟩ := h <;> rfl

/-- RECEIVE's OK writes the one status byte of RXD (R226). -/
theorem receiveOk_rxd_read (s : State) (c : Nat) {a : Nat} (ha : a ≠ rxAt c .status) :
    (s.receiveOk c).rxd.read a = s.rxd.read a := by
  rw [receiveOk_rxd, Memory.read_setField_other]
  omega

theorem receive_rxd_read (s : State) {a : Nat} (ha : a ≠ rxAt s.rxCursor .status) :
    s.receive.rxd.read a = s.rxd.read a := by
  obtain e | h := receive_outcomes s
  · rw [e, receiveOk_rxd_read s _ ha]
  · obtain ⟨-, hrxd, -⟩ := h.sameRx
    rw [hrxd]

/-- What RECEIVE leaves besides the registers, the mode and the TX side. -/
theorem receive_rest (s : State) :
    s.receive.rxb = s.rxb ∧ s.receive.platform = s.platform ∧ s.receive.pending = s.pending := by
  obtain e | h := receive_outcomes s
  · simp only [e, receiveOk_rest, and_self]
  · obtain ⟨-, -, hrxb⟩ := h.sameRx
    exact ⟨hrxb, h.platform, h.pending⟩

/-- RECEIVE is never refused: every outcome of R220 answers the host. -/
theorem exists_answers_receive (s : State) : ∃ r, s.Answers s.receive r := by
  obtain ⟨_, h⟩ | ⟨_, _, _, h⟩ := receive_answers s <;> exact ⟨_, h⟩

/-! ## RXE -/

/-- RXE may fill a slot that it owns and that, under `Window`, is not the slot of RDT (R238, R239). -/
theorem rxAvail_eq_true {s : State} {h : Nat} (hfree : s.rxDone h = false)
    (hwindow : s.platform.rxAvailPolicy = .window → h ≠ (s.reg .rdt).toNat) : s.rxAvail h = true := by
  unfold State.rxAvail
  split
  · rw [hfree, Bool.not_false]
  · next hpolicy => rw [hfree, decide_eq_true (hwindow hpolicy), Bool.not_false, Bool.and_true]

theorem rxeFill_of_avail {s : State} {frame : Bytes} (hlen : frame.length ≤ Config.rxBufSize) (hen : s.rxEnable = true)
    (hhead : (s.reg .rdh).toNat < Config.rxCap) (havail : s.rxAvail (s.reg .rdh).toNat = true) (draw : RxDraw) :
    s.rxeFill frame draw = s.fillSlot (s.reg .rdh).toNat frame draw := by
  simp only [State.rxeFill, if_neg hlen.not_gt, hen, holds_rxDesc, decide_eq_true hhead, havail, Bool.not_true,
    Bool.false_eq_true, if_false]

/-- The bytes of RXB outside the frame (R240). -/
theorem fillSlot_rxb_read (s : State) (h : Nat) (frame : Bytes) (draw : RxDraw) {a : Nat}
    (ha : a < rxBufAt h ∨ rxBufAt h + frame.length ≤ a) : (s.fillSlot h frame draw).rxb.read a = s.rxb.read a := by
  rw [fillSlot_rxb, Memory.read_writeBytes_other _ _ _ _ ha]

/-- The draw of status bits 7:2 stands above the bits RXE sets (R240). -/
theorem statusFilled_high (high : BitVec 6) : (statusFilled high).extractLsb' 2 6 = high := by
  revert high; decide

theorem statusFilled_low (high : BitVec 6) : (statusFilled high).extractLsb' 0 2 = 3 := by
  revert high; decide

/-- A frame that fits its buffer has a length that fits its field. -/
theorem toNat_ofNat_frameLength {frame : Bytes} (hlen : frame.length ≤ Config.rxBufSize) :
    (BitVec.ofNat 16 frame.length).toNat = frame.length := by
  rw [BitVec.toNat_ofNat, Nat.mod_eq_of_lt]
  exact hlen.trans_lt (by decide)

end Sys2Proof.Machine
end

section
/-! The order of received frames (R244, R245): the frames waiting in the RX ring, what a fill and RECEIVE's OK do to them,
and when RXE may step. -/

namespace Sys2Proof.Machine

/-! ## The frames waiting -/

theorem State.rxFrames_succ_last (s : State) (k : Nat) :
    s.rxFrames (k + 1) = s.rxFrames k ++ [s.rxFrame ((s.rxCursor + k) % Config.rxCap)] := by
  simp only [State.rxFrames, List.range_succ, List.map_append, List.map_singleton]

theorem receiveOk_rxCursor (s : State) (c : Nat) : (s.receiveOk c).rxCursor = nextRx c := by
  rw [State.rxCursor, receiveOk_reg, if_pos rfl, toNat_ofNat_nextRx, Nat.mod_eq_of_lt (nextRx_lt c)]

/-- Handing a slot back leaves its buffer and its length. -/
theorem receiveOk_rxFrame (s : State) (c i : Nat) : (s.receiveOk c).rxFrame i = s.rxFrame i := by
  obtain ⟨-, -, hrxb, -⟩ := receiveOk_rest s c
  have hlen : ((s.receiveOk c).rxDesc i).length = (s.rxDesc i).length := by
    by_cases hi : i = c <;> simp [receiveOk_rxDesc, hi]
  rw [State.rxFrame, hlen, State.rxBuf, hrxb, State.rxFrame, State.rxBuf]

/-- RECEIVE's OK answers with the frame of its slot (R224). -/
theorem receiveOk_responses (s : State) (c : Nat) :
    (s.receiveOk c).responses = s.responses ++ [⟨responseWord .ok (s.rxDesc c).length, s.rxFrame c⟩] := by
  simp only [receiveOk_rest, State.rxFrame]

/-- RECEIVE's OK takes the frame at the consumption index off the front. -/
theorem rxFrames_eq_cons_receiveOk (s : State) (k : Nat) :
    s.rxFrames (k + 1) = s.rxFrame s.rxCursor :: (s.receiveOk s.rxCursor).rxFrames k := by
  rw [State.rxFrames, List.range_succ_eq_map, List.map_cons, List.map_map, Nat.add_zero, Nat.mod_eq_of_lt s.rxCursor_lt,
    State.rxFrames, receiveOk_rxCursor]
  refine congrArg (s.rxFrame s.rxCursor :: ·) (List.map_congr_left fun j _ => ?_)
  rw [receiveOk_rxFrame, Function.comp_apply, nextRx, Nat.mod_add_mod, Nat.add_right_comm, Nat.add_assoc]

theorem fillSlot_rxCursor (s : State) (h : Nat) (frame : Bytes) (draw : RxDraw) :
    (s.fillSlot h frame draw).rxCursor = s.rxCursor := by
  rw [State.rxCursor, fillSlot_reg, if_neg (by decide), State.rxCursor]

theorem fillSlot_rxFrame_same (s : State) (h : Nat) {frame : Bytes} (draw : RxDraw)
    (hlen : frame.length ≤ Config.rxBufSize) : (s.fillSlot h frame draw).rxFrame h = frame := by
  rw [State.rxFrame, fillSlot_rxDesc, if_pos rfl, toNat_ofNat_frameLength hlen, fillSlot_rxBuf_same]

theorem fillSlot_rxFrame_other (s : State) {h i : Nat} {frame : Bytes} (draw : RxDraw)
    (hlen : frame.length ≤ Config.rxBufSize) (hi : (s.rxDesc i).length.toNat ≤ Config.rxBufSize) (hne : i ≠ h) :
    (s.fillSlot h frame draw).rxFrame i = s.rxFrame i := by
  rw [State.rxFrame, fillSlot_rxDesc, if_neg hne, fillSlot_rxBuf_other s h frame draw i _ hlen hi hne, State.rxFrame]

/-! ## The ring with `k` frames -/

section
variable {s : State} {k : Nat} (h : s.RxRing k)
include h

theorem State.RxRing.head_lt : (s.reg .rdh).toNat < Config.rxCap :=
  h.head ▸ Nat.mod_lt _ (by decide)

/-- The `j`-th slot from the consumption index on holds a frame for `j < k`. -/
theorem State.RxRing.done_of_lt {j : Nat} (hj : j < k) : s.rxDone ((s.rxCursor + j) % Config.rxCap) = true := by
  have hcur := s.rxCursor_lt
  have hcount := h.count
  refine (h.done _ (Nat.mod_lt _ (by decide))).2 ?_
  simp only [Config.rxCap] at hcur hcount ⊢
  omega

/-- The head slot, the `k`-th from the consumption index on, is the oldest frame's in a full ring, and free in any other. -/
theorem State.RxRing.head_done_iff : s.rxDone (s.reg .rdh).toNat = true ↔ ¬k < Config.rxCap := by
  have hcur := s.rxCursor_lt
  have hcount := h.count
  rw [h.done _ h.head_lt, h.head]
  simp only [Config.rxCap] at hcur hcount ⊢
  omega

theorem State.RxRing.cursor_done_iff : s.rxDone s.rxCursor = true ↔ 0 < k := by
  rw [h.done _ s.rxCursor_lt, Nat.add_sub_cancel_left, Nat.mod_self]

/-- Under `DoneBit` RXE may step exactly where the ring is not full. -/
theorem State.RxRing.rxeEnabled_iff (hpolicy : s.platform.rxAvailPolicy = .doneBit) :
    s.rxeEnabled = true ↔ k < Config.rxCap := by
  rw [State.rxeEnabled, h.enabled, Bool.true_and, State.rxAvail, hpolicy]
  simpa using h.head_done_iff.not_left

/-- A fill puts its frame behind those that wait, which it leaves. -/
theorem State.RxRing.fillSlot_rxFrames {frame : Bytes} (draw : RxDraw) (hlen : frame.length ≤ Config.rxBufSize)
    (hk : k < Config.rxCap) :
    (s.fillSlot (s.reg .rdh).toNat frame draw).rxFrames (k + 1) = s.rxFrames k ++ [frame] := by
  rw [State.rxFrames_succ_last, fillSlot_rxCursor, ← h.head, fillSlot_rxFrame_same s _ draw hlen, State.rxFrames,
    fillSlot_rxCursor]
  congr 1
  refine List.map_congr_left fun j hj => ?_
  have hdone := h.done_of_lt (List.mem_range.1 hj)
  refine fillSlot_rxFrame_other s draw hlen (h.length _ (Nat.mod_lt _ (by decide)) hdone) fun heq => ?_
  exact h.head_done_iff.1 (heq ▸ hdone) hk

end

end Sys2Proof.Machine
end

section
/-! The RX side under `Window` once RDH = RDT (R246, R339): no step moves a frame. -/

namespace Sys2Proof.Machine

/-- The empty window of R246: RDH = RDT at a slot of the ring with DD clear, under `Window`. -/
structure State.RxStalled (s : State) : Prop where
  policy : s.platform.rxAvailPolicy = .window
  attached : s.mode = .attached
  headIsTail : s.reg .rdh = s.reg .rdt
  inRing : (s.reg .rdh).toNat < Config.rxCap
  free : s.rxDone (s.reg .rdh).toNat = false

/-- ATTACH in mode ATTACHED is turned away (R151, R165). -/
theorem attach_turnedAway_of_attached {s : State} (hmode : s.mode = .attached) : s.TurnedAway s.attach := by
  rcases attach_cases s with ⟨_, e⟩ | ⟨_, hother, _⟩ | ⟨_, _, e⟩ | ⟨_, hother, _⟩ | ⟨_, hother, _⟩
  · exact e ▸ s.turnedAway_refuse _
  · exact nomatch hmode.symm.trans hother
  · exact e ▸ s.turnedAway_fault _
  all_goals exact nomatch hmode.symm.trans hother

theorem State.SameRx.rxDone_eq {s t : State} (h : s.SameRx t) : t.rxDone = s.rxDone := by
  obtain ⟨-, hrxd, -⟩ := h
  funext i
  rw [State.rxDone_eq, State.rxDesc, hrxd, State.rxDone_eq, State.rxDesc]

/-- The stall depends on the policy, the mode and the RX side alone. -/
theorem State.RxStalled.congr {s t : State} (h : s.RxStalled) (hplatform : t.platform = s.platform)
    (hmode : t.mode = .attached) (hrx : s.SameRx t) : t.RxStalled := by
  have hdone := hrx.rxDone_eq
  obtain ⟨hpolicy, -, htail, hhead, hfree⟩ := h
  obtain ⟨hreg, -⟩ := hrx
  have hrdh := hreg .rdh (by decide)
  have hrdt := hreg .rdt (by decide)
  exact ⟨hplatform ▸ hpolicy, hmode, by rw [hrdh, hrdt, htail], by rwa [hrdh], by rwa [hdone, hrdh]⟩

section
variable {s : State} (h : s.RxStalled)
include h

/-- RXE may not fill the slot of RDT (R239). -/
theorem State.RxStalled.rxeFill_eq (frame : Bytes) (draw : RxDraw) : s.rxeFill frame draw = s := by
  obtain ⟨-, hbusy, -⟩ := frameLostWithoutTrace s frame draw
  exact hbusy h.inRing (.inr ⟨h.policy, h.headIsTail⟩)

/-- The slot at the consumption index is that of RDH, with DD clear. -/
theorem State.RxStalled.receive_eq : s.receive = s.result .noPacketAvailable := by
  have hcursor : s.rxCursor = (s.reg .rdh).toNat := by
    rw [State.rxCursor, ← h.headIsTail, Nat.mod_eq_of_lt h.inRing]
  exact receive_of_empty h.attached (hcursor ▸ h.free)

/-- No label changes the RX side, or the platform. -/
theorem State.RxStalled.runLabel_sameRx {l : Label} {t : State} (hrun : runLabel l s = .next t) :
    s.SameRx t ∧ t.platform = s.platform := by
  have hturned {u : State} (hu : s.TurnedAway u) : s.SameRx u ∧ u.platform = s.platform := ⟨hu.sameRx, hu.platform⟩
  have hindep {f : State → State} (hf : IndependentOfRx f) : s.SameRx (f s) ∧ (f s).platform = s.platform :=
    ⟨hf.sameRx s, hf.platform s⟩
  rcases runLabel_cases l s t hrun with rfl | rfl | ⟨len, data, rfl⟩ | rfl | rfl | ⟨frame, draw, rfl⟩
  · exact hturned (s.turnedAway_fault _)
  · exact hturned (attach_turnedAway_of_attached h.attached)
  · exact hindep (transmit_independentOfRx len data)
  · rw [h.receive_eq]
    exact hturned (s.turnedAway_result (by decide))
  · exact hindep txeDrain_independentOfRx
  · rw [h.rxeFill_eq]
    exact ⟨⟨fun _ _ => rfl, rfl, rfl⟩, rfl⟩

end

theorem State.RxStalled.step {s t : State} (h : s.RxStalled) (hstep : step s = .next t) : t.RxStalled ∧ s.SameRx t := by
  obtain ⟨-, ⟨-, rfl⟩ | ⟨l, rest, -, hrun⟩⟩ := step_cases s t hstep
  · exact ⟨h, fun _ _ => rfl, rfl, rfl⟩
  · have h₀ : s.dropLabel.RxStalled := h.congr rfl h.attached ⟨fun _ _ => rfl, rfl, rfl⟩
    obtain ⟨hsame, hplatform⟩ := h₀.runLabel_sameRx hrun
    exact ⟨h₀.congr hplatform (runLabel_mode_of_attached h₀.attached hrun) hsame, hsame⟩

end Sys2Proof.Machine
end

section
/-! The statements on RECEIVE, RXE's fill and the RX protocol. -/

namespace Sys2Proof.Machine

/-! ## RECEIVE -/

/-- Settles O23: `receive_of_deliverable`, and what RECEIVE's OK does to each part of the state. -/
theorem receiveDelivers : Obligations.ReceiveDelivers := by
  intro s c hmode hdone hlen
  have hreg := receiveOk_reg s c
  have hdesc := receiveOk_rxDesc s c
  obtain ⟨htxd, htxb, hrxb, htmode, haccum, hlog, hfaults, hrefused, hpending, hplatform, hresp⟩ := receiveOk_rest s c
  have hrdt : (s.receiveOk c).reg .rdt = BitVec.ofNat 32 (nextRx c) := hreg .rdt
  refine ⟨s.receiveOk c, _, ?_, hresp, Response.code_responseWord .., Response.rlen_responseWord .., rfl,
    (hdesc c).trans (if_pos rfl), fun i hi => (hdesc i).trans (if_neg hi), hrdt, ?_,
    fun q hq => (hreg q).trans (if_neg hq),
    hrxb, htxd, htxb, htmode, haccum, hlog, hfaults, hrefused, hpending, hplatform⟩
  · rw [exec_receive, receive_of_deliverable hmode hdone hlen]
    rfl
  · rw [hrdt, toNat_ofNat_nextRx]
    exact nextRx_lt c

/-- Settles O24: `receive_of_empty`. -/
theorem receiveEmpty : Obligations.ReceiveEmpty := by
  intro s hmode hfree
  rw [exec_receive, receive_of_empty hmode hfree]
  rfl

/-- Settles O25: `receive_of_tooLong`. -/
theorem receiveTooLong : Obligations.ReceiveTooLong := by
  intro s c hmode hdone hlen
  rw [exec_receive, receive_of_tooLong hmode hdone hlen]
  rfl

/-- Settles O26: RECEIVE delivers or is turned away, and either way it answers the host once. -/
theorem receiveFrame : Obligations.ReceiveFrame := by
  intro s t hexec
  cases (exec_receive s).symm.trans hexec
  obtain ⟨r, hresp, hrefused⟩ := exists_answers_receive s
  obtain ⟨-, htxd, htxb, haccum, hlog⟩ := receive_sameTx s
  obtain ⟨hrxb, hplatform, hpending⟩ := receive_rest s
  exact ⟨fun a => receive_rxd_read s, fun r => receive_reg_other s, hrxb, htxd, htxb, receive_mode s, haccum, hlog,
    hrefused, hplatform, hpending, r, hresp⟩

/-! ## RXE's fill -/

/-- Settles O29: the conditions leave the fill of the ways RXE's step can end. -/
theorem fillDeposits : Obligations.FillDeposits := by
  intro s frame draw h hlen hen hhead hfree hwindow t
  have havail : s.rxAvail h = true :=
    rxAvail_eq_true hfree fun hpolicy => BitVec.toNat_ne_iff_ne.2 (hwindow hpolicy)
  have hfill : t = s.fillSlot h frame draw := rxeFill_of_avail hlen hen hhead havail draw
  have hdesc : t.rxDesc h = _ := hfill ▸ (fillSlot_rxDesc s h frame draw h).trans (if_pos rfl)
  have hreg := fillSlot_reg s h frame draw
  obtain ⟨htxd, htxb, hmode, haccum, hlog, hfaults, hrefused, hpending, hplatform, hresp⟩ :=
    fillSlot_rest s h frame draw
  rw [hdesc, hfill]
  exact ⟨fillSlot_rxBuf_same s h frame draw, fun a => fillSlot_rxb_read s h frame draw, rfl,
    toNat_ofNat_frameLength hlen, rfl, rfl, rfl, statusFilled_high _, statusFilled_low _,
    fun i hi => (fillSlot_rxDesc s h frame draw i).trans (if_neg hi), hreg .rdh, fun r hr => (hreg r).trans (if_neg hr),
    htxd, htxb, hmode, haccum, hlog, hfaults, hrefused, hplatform, hpending, hresp⟩

/-! ## The RX protocol -/

/-- Settles O53: with `k` frames waiting the head slot is free exactly for `k < 128` and the slot at the consumption index
done exactly for `0 < k`; a fill adds a frame at the back and RECEIVE's OK takes one off the front. -/
theorem rxIsFifo : Obligations.RxIsFifo := by
  intro s k h hpolicy
  have hfills {frame : Bytes} (draw : RxDraw) (hlen : frame.length ≤ 2048) (hk : k < 128) :
      s.rxeFill frame draw = s.fillSlot (s.reg .rdh).toNat frame draw := by
    have hfree : s.rxDone (s.reg .rdh).toNat = false := Bool.eq_false_iff.2 fun hdone => h.head_done_iff.1 hdone hk
    exact rxeFill_of_avail hlen h.enabled h.head_lt (rxAvail_eq_true hfree (hpolicy ▸ nofun)) draw
  refine ⟨h.rxeEnabled_iff hpolicy, fun frame draw hlen hk => ?_, fun frame draw hk => ?_, fun hmode hk => ?_,
    fun hmode hk => ?_⟩
  · rw [hfills draw hlen hk]
    exact ⟨h.fillSlot frame draw hlen hk, h.fillSlot_rxFrames draw hlen hk⟩
  · obtain ⟨-, hbusy, -⟩ := frameLostWithoutTrace s frame draw
    exact hbusy h.head_lt (.inl (h.head_done_iff.2 hk))
  · have hdone := h.cursor_done_iff.2 hk
    have hframes := rxFrames_eq_cons_receiveOk s (k - 1)
    rw [Nat.sub_add_cancel hk] at hframes
    refine ⟨_, _, ?_, receiveOk_responses s s.rxCursor, Response.code_responseWord .., h.receiveOk hk, hframes⟩
    rw [exec_receive, receive_of_deliverable hmode hdone (h.length _ s.rxCursor_lt hdone)]
  · have hfree : s.rxDone s.rxCursor = false :=
      Bool.eq_false_iff.2 fun hdone => (h.cursor_done_iff.1 hdone).ne' hk
    rw [exec_receive, receive_of_empty hmode hfree]

/-- Settles O54: the stall `State.RxStalled` lets no frame in or out, and every step keeps it with the RX side. -/
theorem windowDeadlock : Obligations.WindowDeadlock := by
  intro s hpolicy hmode htail hhead hfree
  have h : s.RxStalled := ⟨hpolicy, hmode, htail, hhead, hfree⟩
  refine ⟨h.rxeFill_eq, ?_, fun t hstep => ?_⟩
  · rw [exec_receive, h.receive_eq]
    exact ⟨_, _, rfl, rfl, Response.code_responseWord ..⟩
  · obtain ⟨hnext, -, hrxd, hrxb⟩ := h.step hstep
    exact ⟨hnext.policy, hnext.attached, hnext.headIsTail, hnext.inRing, hnext.free, hrxd, hrxb⟩

end Sys2Proof.Machine
end

section
/-! The pages and the messages of the host's IPC (R262 to R264): what a page with a frame in it holds, and the length that
the Output Pump puts into TRANSMIT's word. -/

namespace Sys2Proof.Machine

/-! ## Pages (R262, R267) -/

theorem PageBytes.toList_put (old : PageBytes) {bs : Bytes} (hfits : bs.length ≤ Config.pageSize) :
    (old.put bs).toList = bs ++ old.toList.drop bs.length := by
  refine List.take_of_length_le ?_
  rw [List.length_append, List.length_drop, Vector.length_toList]
  omega

section
variable (id : Nat) (old : PageBytes) {frame : Bytes} (hfits : frame.length ≤ Config.rxBufSize)
include hfits

/-- A frame that fits its RX buffer fits a page, its length in front of it. -/
theorem Page.ofFrame_toList :
    (Page.ofFrame id old frame).bytes.toList = leBytes 4 frame.length ++ (frame ++ old.toList.drop (4 + frame.length)) := by
  have hpage : (leBytes 4 frame.length ++ frame).length ≤ Config.pageSize := by
    rw [List.length_append, leBytes_length]
    simp only [Config.rxBufSize, Config.pageSize] at hfits ⊢
    omega
  rw [Page.ofFrame, PageBytes.toList_put old hpage, List.length_append, leBytes_length, List.append_assoc]

theorem Page.ofFrame_length : (Page.ofFrame id old frame).length.toNat = frame.length := by
  have hsmall : frame.length < 256 ^ 4 := hfits.trans_lt (by decide)
  rw [Page.length, Page.ofFrame_toList id old hfits, List.take_left' (leBytes_length ..), leNat_leBytes,
    Nat.mod_eq_of_lt hsmall, toNat_ofNat_small _ hsmall]

theorem Page.ofFrame_data : (Page.ofFrame id old frame).data = frame := by
  rw [Page.data, Page.ofFrame_length id old hfits, Page.ofFrame_toList id old hfits,
    List.drop_left' (leBytes_length ..), List.take_left]

/-- The page's bytes behind the frame are as they were. -/
theorem Page.ofFrame_getElem {i : Nat} (hbehind : 4 + frame.length ≤ i) (hi : i < Config.pageSize) :
    (Page.ofFrame id old frame).bytes[i] = old[i] := by
  have hget : (Page.ofFrame id old frame).bytes.toList[i]? = old.toList[i]? := by
    rw [Page.ofFrame_toList id old hfits, ← List.append_assoc, List.getElem?_append_right, List.getElem?_drop,
      List.length_append, leBytes_length, Nat.add_sub_cancel' hbehind]
    rwa [List.length_append, leBytes_length]
  simpa [hi] using hget

end

theorem Page.data_length (p : Page) : p.data.length = min p.length.toNat 4092 := by
  rw [Page.data, List.length_take, List.length_drop, Vector.length_toList, Config.pageSize]

/-! ## The length of a packet to send (R271) -/

theorem clampLength_toNat (n : Word) : (clampLength n).toNat = min n.toNat 65535 := by
  rw [clampLength, BitVec.toNat_ofNat, Nat.mod_eq_of_lt]
  exact (Nat.min_le_right ..).trans_lt (by decide)

/-- A page holds whole every packet that TRANSMIT takes: its data operand meets R115. -/
theorem clampLength_le_data_length (p : Page) :
    Config.maxFrame ≤ (clampLength p.length).toNat ∨ (clampLength p.length).toNat ≤ p.data.length := by
  rw [clampLength_toNat, Page.data_length, Config.maxFrame]
  omega

end Sys2Proof.Machine
end

section
/-! What the two pumps do in each place of their loops (R265, R269), and the steps of the composed system while the block's
refusal mark is not set. -/

namespace Sys2Proof.Machine

/-! ## The Output Pump on a message (R264, R270, R271) -/

section
variable {sys : PumpSystem} {m : Message}

theorem PumpSystem.takeMessage_of_addressed (hwaits : sys.output = .waiting) (hsender : m.sender = sys.nsId)
    (htag : m.tag = Config.nsreqOutput) :
    sys.takeMessage m = { sys with output := .transmitting (clampLength m.page.length) m.page.data } := by
  rw [PumpSystem.takeMessage, hwaits]
  exact if_pos ⟨hsender, htag⟩

theorem PumpSystem.takeMessage_of_transmitting {len : Half} {data : Bytes} (hbusy : sys.output = .transmitting len data) :
    sys.takeMessage m = sys := by
  rw [PumpSystem.takeMessage, hbusy]

theorem PumpSystem.takeMessage_of_misrouted (hwrong : m.sender ≠ sys.nsId ∨ m.tag ≠ Config.nsreqOutput) :
    sys.takeMessage m = sys := by
  cases hout : sys.output with
  | waiting =>
    rw [PumpSystem.takeMessage, hout]
    exact if_neg (not_and_or.2 hwrong)
  | transmitting len data => exact PumpSystem.takeMessage_of_transmitting hout

end

/-! ## The Input Pump's send (R264, R265, R268) -/

section
variable {sys : PumpSystem} {blocked : List Nat} (page : Page)

theorem PumpSystem.trySend_of_mem (hreceives : sys.nsId ∈ blocked) :
    sys.trySend page blocked =
      { sys with input := .polling, sent := sys.sent ++ [⟨sys.nsId, Config.nsreqInput, page⟩] } :=
  if_pos hreceives

theorem PumpSystem.trySend_of_not_mem (hbusy : sys.nsId ∉ blocked) : sys.trySend page blocked = sys :=
  if_neg hbusy

end

/-! ## The pumps on a response (R266, R267, R272) -/

section
variable {sys : PumpSystem} {r : Response}

theorem PumpSystem.received_of_noPacketAvailable (hempty : r.code = ResultCode.noPacketAvailable.code)
    (fresh : PageBytes) : sys.received fresh r = sys :=
  if_pos hempty

theorem PumpSystem.received_of_ok (hok : r.code = ResultCode.ok.code) (fresh : PageBytes) :
    sys.received fresh r =
      { sys with input := .sending (Page.ofFrame sys.nextPage fresh r.data), nextPage := sys.nextPage + 1 } :=
  if_neg (hok ▸ by decide)

theorem PumpSystem.transmitted_of_transmitting {len : Half} {data : Bytes} (hsends : sys.output = .transmitting len data) :
    sys.transmitted r =
      { sys with output := if r.code = ResultCode.ringFull.code then .transmitting len data else .waiting } := by
  rw [PumpSystem.transmitted, ← hsends]
  by_cases hfull : r.code = ResultCode.ringFull.code
  · rw [if_pos hfull, if_pos hfull]
  · rw [if_neg hfull, if_neg hfull]

end

/-! ## Steps -/

section
variable {sys : PumpSystem} (hlive : sys.dra.refused = none)
include hlive

theorem PumpSystem.after_next (t : State) (k : State → PumpSystem) : sys.after (.next t) k = .next (k t) := by
  simp only [PumpSystem.after, hlive]

theorem PumpSystem.step_message (m : Message) : sys.step (.message m) = .next (sys.takeMessage m) :=
  PumpSystem.after_next hlive ..

theorem PumpSystem.step_inputPump_of_sending {page : Page} (hholds : sys.input = .sending page) (fresh : PageBytes)
    (blocked : List Nat) : sys.step (.inputPump fresh blocked) = .next (sys.trySend page blocked) := by
  simp only [PumpSystem.step, hholds, PumpSystem.after_next hlive]

/-- A polling pump issues RECEIVE and acts on the answer (R266). -/
theorem PumpSystem.step_inputPump_of_polling (hpolls : sys.input = .polling) {r : Response}
    (hans : sys.dra.Answers sys.dra.receive r) (fresh : PageBytes) (blocked : List Nat) :
    sys.step (.inputPump fresh blocked) = .next ({ sys with dra := sys.dra.receive }.received fresh r) := by
  have hcommand : hostCommand (encode .receive) [] sys.dra = .next sys.dra.receive := hostCommand_encode .receive sys.dra
  simp only [PumpSystem.step, hpolls, hcommand, PumpSystem.after_next hlive, newResponse_of_answers hans]

/-- A transmitting pump issues TRANSMIT and acts on the answer (R272). -/
theorem PumpSystem.step_outputPump_of_transmitting {len : Half} {data : Bytes}
    (hsends : sys.output = .transmitting len data) {r : Response}
    (hans : sys.dra.Answers (sys.dra.transmit len data) r) :
    sys.step .outputPump = .next ({ sys with dra := sys.dra.transmit len data }.transmitted r) := by
  have hcommand : hostCommand (encode (.transmit len data)) data sys.dra = .next (sys.dra.transmit len data) :=
    hostCommand_encode (.transmit len data) sys.dra
  simp only [PumpSystem.step, hsends, hcommand, PumpSystem.after_next hlive, newResponse_of_answers hans]

end

/-! ## The answers the pumps act on -/

/-- TRANSMIT with an operand that meets R115 is not refused. -/
theorem exists_answers_transmit (s : State) {len : Half} {data : Bytes}
    (hdata : Config.maxFrame ≤ len.toNat ∨ len.toNat ≤ data.length) : ∃ r, s.Answers (s.transmit len data) r := by
  obtain ⟨_, hans⟩ | ⟨hlen, hshort, -⟩ := transmit_answers s len data
  · exact ⟨_, hans⟩
  · exact absurd hdata (not_or.2 ⟨hlen.not_ge, hshort.not_ge⟩)

/-- Every answer of RECEIVE is a code alone, but OK's, whose frame comes out of one RX buffer (R224, R225). -/
theorem exists_answers_receive_data_le (s : State) : ∃ r, s.Answers s.receive r ∧ r.data.length ≤ Config.rxBufSize := by
  have hcode {t : State} (h : s.AnswersCode t) : ∃ r, s.Answers t r ∧ r.data.length ≤ Config.rxBufSize := by
    obtain ⟨_, hans⟩ := h
    exact ⟨_, hans, Nat.zero_le _⟩
  rcases receive_cases s with ⟨_, e⟩ | ⟨_, e⟩ | ⟨_, _, e⟩ | ⟨_, _, _, e⟩ | ⟨_, _, hlen, e⟩ <;> rw [e]
  · exact hcode (s.answersCode_fault _)
  · exact hcode (s.answersCode_fault _)
  · exact hcode (s.answersCode_result _)
  · exact hcode (s.answersCode_fault _)
  · obtain ⟨-, -, -, -, -, -, -, hrefused, -, -, hresp⟩ := receiveOk_rest s s.rxCursor
    refine ⟨_, ⟨hresp, hrefused⟩, ?_⟩
    rwa [State.rxBuf, Memory.length_bytes, Nat.sub_zero]

end Sys2Proof.Machine
end

section
/-! The statements on the host's pumps. -/

namespace Sys2Proof.Machine

/-- Settles O56: the pump takes an addressed message with an operand that meets R115, so that its TRANSMIT is answered, and
the answer decides whether it stays. -/
theorem outputPumpRetries : Obligations.OutputPumpRetries := by
  refine ⟨fun sys m hlive hwaits hsender htag => ?_, fun sys len data hlive hsends hdata => ?_⟩
  · have hclamp := clampLength_toNat m.page.length
    refine ⟨_, ?_, hclamp, by omega, clampLength_le_data_length m.page⟩
    rw [PumpSystem.step_message hlive, PumpSystem.takeMessage_of_addressed hwaits hsender htag]
  · obtain ⟨r, hans⟩ := exists_answers_transmit sys.dra hdata
    refine ⟨_, r, exec_transmit .., hans.1, ?_⟩
    rw [PumpSystem.step_outputPump_of_transmitting hlive hsends hans]
    exact congrArg _ (PumpSystem.transmitted_of_transmitting hsends)

/-- Settles O57: a polling pump acts on RECEIVE's answer, whose frame fits a page; one that holds a page tries to send it. -/
theorem inputPumpHoldsOneFrame : Obligations.InputPumpHoldsOneFrame := by
  refine fun sys fresh blocked hlive => ⟨fun hpolls => ?_, fun page hholds => ?_⟩
  · obtain ⟨r, hans, hfits⟩ := exists_answers_receive_data_le sys.dra
    rw [PumpSystem.step_inputPump_of_polling hlive hpolls hans]
    exact ⟨_, r, exec_receive _, hans.1, fun hempty => congrArg _ (PumpSystem.received_of_noPacketAvailable hempty fresh),
      fun hok => ⟨Page.ofFrame sys.nextPage fresh r.data, rfl, Page.ofFrame_length _ _ hfits, Page.ofFrame_data _ _ hfits,
        fun i => Page.ofFrame_getElem _ _ hfits, congrArg _ (PumpSystem.received_of_ok hok fresh)⟩⟩
  · rw [PumpSystem.step_inputPump_of_sending hlive hholds]
    exact ⟨fun hbusy => congrArg _ (PumpSystem.trySend_of_not_mem page hbusy),
      fun hreceives => congrArg _ (PumpSystem.trySend_of_mem page hreceives)⟩

/-- Settles O55: the Output Pump drops a misrouted message, and while it transmits it takes none. -/
theorem outputPumpDropsMisrouted : Obligations.OutputPumpDropsMisrouted := by
  intro sys m hlive
  rw [PumpSystem.step_message hlive]
  exact ⟨fun hwrong => congrArg _ (PumpSystem.takeMessage_of_misrouted hwrong),
    fun len data hbusy => congrArg _ (PumpSystem.takeMessage_of_transmitting hbusy)⟩

end Sys2Proof.Machine
end

section
/-! The statements on faults and on refusal: what stops a step, what a step runs, and the modes that TRANSMIT and RECEIVE
check (R295 to R300). -/

namespace Sys2Proof.Machine

/-! ## TRANSMIT and RECEIVE outside mode ATTACHED (R300) -/

theorem transmit_of_unattached {s : State} (hmode : s.mode = .unattached) (len : Half) (data : Bytes) :
    s.transmit len data = s.fault .notAttached := by
  simpa [hmode] using transmit_cases s len data

theorem receive_of_unattached {s : State} (hmode : s.mode = .unattached) : s.receive = s.fault .notAttached := by
  simpa [hmode] using receive_cases s

theorem exec_transfer_of_unattached {s : State} (hmode : s.mode = .unattached) {i : Instr} (hi : i ≠ .attach) :
    exec i s = .next (s.fault .notAttached) := by
  cases i with
  | attach => exact absurd rfl hi
  | transmit len data => rw [exec_transmit, transmit_of_unattached hmode]
  | receive => rw [exec_receive, receive_of_unattached hmode]

/-- Unlike ATTACH, neither looks at the platform, so `exec_of_failed` holds of them without its condition. -/
theorem exec_transfer_of_failed {s : State} (hmode : s.mode = .failed) {i : Instr} (hi : i ≠ .attach) :
    exec i s = .next (s.fault .useAfterAttachFailure) := by
  cases i with
  | attach => exact absurd rfl hi
  | transmit len data => rw [exec_transmit, transmit_of_failed hmode]
  | receive => rw [exec_receive, receive_of_failed hmode]

/-! ## The obligations -/

/-- Settles O7: `step_next` without the refusal mark, `step_of_refused` with it. -/
theorem onlyRefusalStops : Obligations.OnlyRefusalStops := by
  refine fun s => ⟨⟨fun ⟨t, hstep⟩ => ?_, step_next⟩, fun _ => step_of_refused⟩
  obtain ⟨hnone, -⟩ := step_cases s t hstep
  exact hnone

/-- Settles O5: the step runs the label at the head of the schedule, and that label runs the command its word decodes to. -/
theorem stepRunsDecodedCommand : Obligations.StepRunsDecodedCommand := by
  intro s w data rest i hnone hp hdec
  calc step s
      = hostCommand w data s.dropLabel := step_of_pending_cons hnone hp
    _ = exec i s.dropLabel := hostCommand_of_decode_eq_ok hdec _
    _ = exec i { s with pending := rest } := by rw [dropLabel_of_pending_cons hp]

/-- Settles O22: in either mode the mode check alone decides, and `State.fault` is the whole effect. -/
theorem transferNeedsAttach : Obligations.TransferNeedsAttach :=
  fun _ _ hi => ⟨fun hmode => exec_transfer_of_unattached hmode hi, fun hmode => exec_transfer_of_failed hmode hi⟩

end Sys2Proof.Machine
end
